-- ==== Sys2Proof/Word.lean ====
section
/-!
DEFINITION. The word types of the block: a payload byte, a channel register, the trigger vector, the 72-bit read bus
(spec 00_scope R6, R9; 10_state R21, R34).
-/

namespace Sys2Proof

/-- A payload byte, unsigned, 0 to 255; bit 0 is its least-significant bit (R9). -/
abbrev Byte := BitVec 8

/-- A channel register, 16 bits, two's complement (R21; PRESUMED by the spec itself, log entry 3). -/
abbrev ChanWord := BitVec 16

/-- The trigger vector `T[2:0] = {rst, bound, dec_req}` (R60): bit 2 is rst, bit 1 is bound, bit 0 is dec_req. -/
abbrev Trigger := BitVec 3

/-- The read bus `rd_data[71:0]` (R34). -/
abbrev Bus := BitVec 72

end Sys2Proof
end

