-- ==== Sys2Proof/Syntax.lean ====
section
/-!
DEFINITION. The operations of the block (one constructor per row of spec/opcode_table.json), the payload they carry,
the events they record, and the input samples the host supplies.
-/

namespace Sys2Proof

/-- A payload: the nine bytes P[0] to P[8] one `TransportRead(9)` returns (R15, R61). -/
structure Payload where
  /-- P[0]: throttle -/
  p0 : Byte
  /-- P[1]: yaw -/
  p1 : Byte
  /-- P[2]: ignored (R66) -/
  p2 : Byte
  /-- P[3]: pitch, and the aux1 selector -/
  p3 : Byte
  /-- P[4]: roll -/
  p4 : Byte
  /-- P[5]: ignored (R66) -/
  p5 : Byte
  /-- P[6]: ignored (R66) -/
  p6 : Byte
  /-- P[7]: low nibble is the flip nibble, high nibble ignored (R66) -/
  p7 : Byte
  /-- P[8]: ignored (R66) -/
  p8 : Byte
  deriving DecidableEq, Repr, Inhabited

/-- The four payload classes (R65). -/
inductive PayloadClass where
  | noflip | flipHi | flipLo | flipDead
  deriving DecidableEq, Repr

/-- The operations, one constructor per row of the opcode table. The don't-care trigger bits of a row (R60: `x`) are
fields, so that an operation records the whole trigger that selected it (DESIGN CHOICE, log entry 18); no meaning reads
them. A DECODE carries the nine bytes of the transport's answer (R69). -/
inductive Instr where
  /-- RESET, `T = 3'b1xx` (R120) -/
  | reset (bound decReq : Bool)
  /-- IDLE, `T = 3'b0x0` (R121) -/
  | idle (bound : Bool)
  /-- DECODE.NOFLIP, `T = 3'b011` and a NOFLIP payload (R93) -/
  | decodeNoflip (p : Payload)
  /-- DECODE.FLIP_HI (R94) -/
  | decodeFlipHi (p : Payload)
  /-- DECODE.FLIP_LO (R95) -/
  | decodeFlipLo (p : Payload)
  /-- DECODE.FLIP_DEAD (R96) -/
  | decodeFlipDead (p : Payload)
  /-- DECODE_UNBOUND, `T = 3'b001` (R122) -/
  | decodeUnbound
  /-- REQ_WHILE_BUSY, `dec_req = 1` and `rst = 0` in a cycle with `busy = 1` (R123) -/
  | reqWhileBusy (bound : Bool)
  deriving DecidableEq, Repr

/-- The events of the history (R32). `read` holds the size read and the bytes; `commit` the five integers committed,
throttle, roll, pitch, yaw, aux1 (R91; log entry 11). -/
inductive Event where
  | read (n : Nat) (p : Payload)
  | flushRx
  | clearStatus
  | commit (t r p y a : Int)
  | fsClr
  | reset
  deriving DecidableEq, Repr

/-- One sample of the input ports (R34), as the host supplies it for one step. -/
inductive Stimulus where
  /-- One transaction-level step (R60, R154): the trigger, and on `rd_data` the draw a DECODE's read returns. -/
  | transaction (trig : Trigger) (rdData : Bus)
  /-- One clock cycle of a cycle-level realisation (R25, R161, R165): the trigger, `rd_ack`, `rd_data`, and in `pace` how
  many of the three stages after the read (flush; status clear; commit with failsafe reset) the DECODE in progress gets
  through in this cycle at most (the open parameter DECODE_LATENCY, R8, R168; log entry 7). The last three are read only
  while a DECODE is in progress. -/
  | cycle (trig : Trigger) (rdAck : Bool) (rdData : Bus) (pace : Nat)
  deriving DecidableEq, Repr, Inhabited

end Sys2Proof
end

