-- ==== Sys2Proof/Config.lean ====
section
/-!
DEFINITION. The parameters the spec fixes (00_scope R6) and the one free value: the input samples of a host that has
supplied none in the script (60_exceptions R150, R154).
-/

namespace Sys2Proof.Config

/-- PAYLOAD_SIZE: the only size the spec specifies (R6, R7). -/
def payloadSize : Nat := 9
/-- SHIFT, to the left (R6). -/
def shift : Nat := 2
/-- BIAS, for roll, pitch and yaw only (R6). -/
def bias : Int := -512
/-- THR_MIN (R6). -/
def thrMin : Int := 0
/-- THR_MAX (R6). -/
def thrMax : Int := 1000
/-- AX_MIN (R6). -/
def axMin : Int := -500
/-- AX_MAX (R6). -/
def axMax : Int := 500
/-- AUX_HI_THRESH, strict (R6). -/
def auxHiThresh : Nat := 0xF0
/-- AUX_LO_THRESH, strict (R6). -/
def auxLoThresh : Nat := 0x0F
/-- AUX_HI_VAL (R6). -/
def auxHiVal : Int := 500
/-- AUX_LO_VAL (R6). -/
def auxLoVal : Int := -500

/-- A FREE VALUE: the input sample the host drives in its n-th step beyond the script. The spec leaves to the host when
and how often it raises each input and which nine bytes the transport answers (R150 HT1, HT2, HT4; R53), so nothing
constrains it (log entry 1). -/
opaque hostStimulus : Nat → Stimulus

end Sys2Proof.Config
end

