-- ==== Sys2Proof/Machine/Operands.lean ====
section
/-!
DEFINITION. Operand assembly: the payload's fields (30_encoding R62), the integer primitives (00_scope R10) and the
values of the five channels (30_encoding R63; 40_frame_decode R84 to R89).
-/

namespace Sys2Proof.Machine

/-- `THR_RAW = P[0]` (R62). -/
def thrRaw (p : Payload) : Byte := p.p0
/-- `YAW_RAW = P[1]` (R62). -/
def yawRaw (p : Payload) : Byte := p.p1
/-- `PIT_RAW = P[3]` (R62). -/
def pitRaw (p : Payload) : Byte := p.p3
/-- `ROL_RAW = P[4]` (R62). -/
def rolRaw (p : Payload) : Byte := p.p4
/-- `AUX_SEL` is another name for `PIT_RAW` (R62). -/
def auxSel (p : Payload) : Byte := pitRaw p
/-- `FLIP_NIB = P[7][3:0]` (R62). -/
def flipNib (p : Payload) : BitVec 4 := p.p7.extractLsb' 0 4

/-- `zext(b)` as an integer: the byte's unsigned value (R10). -/
def zext (b : Byte) : Int := (b.toNat : Int)

/-- `v << k` is `v * 2^k` on integers (R10). -/
def shl (v : Int) (k : Nat) : Int := v * 2 ^ k

/-- `clamp(v, lo, hi)` (R10). -/
def clamp (v lo hi : Int) : Int := if v < lo then lo else if v > hi then hi else v

/-- `to16(v)`: the 16-bit two's-complement encoding of an integer (R10; log entry 3). -/
def to16 (v : Int) : ChanWord := BitVec.ofInt 16 v

/-- The integer a channel register holds, read as two's complement (R21). -/
def signed (w : ChanWord) : Int := w.toInt

/-- `thr_raw = zext_16(THR_RAW) << 2`: no bias (R63). -/
def thrShifted (b : Byte) : Int := shl (zext b) Config.shift

/-- `axis_raw(b) = (zext_16(b) << 2) - 512` (R63). -/
def axisRaw (b : Byte) : Int := shl (zext b) Config.shift + Config.bias

/-- The throttle map of a byte (R84). -/
def throttleOf (b : Byte) : Int := clamp (thrShifted b) Config.thrMin Config.thrMax

/-- The axis map of a byte, the same for roll, pitch and yaw (R85 to R87). -/
def axisOf (b : Byte) : Int := clamp (axisRaw b) Config.axMin Config.axMax

/-- `t` (R84). -/
def throttle (p : Payload) : Int := throttleOf (thrRaw p)
/-- `r` (R85). -/
def roll (p : Payload) : Int := axisOf (rolRaw p)
/-- `p` (R86). -/
def pitch (p : Payload) : Int := axisOf (pitRaw p)
/-- `y` (R87). -/
def yaw (p : Payload) : Int := axisOf (yawRaw p)

end Sys2Proof.Machine
end

