-- ==== Sys2Proof/Machine/Flags.lean ====
section
/-!
DEFINITION. The conditions a DECODE computes afresh from its payload; the block stores no flag (10_state R26): the flip
event (40_frame_decode R88), the two aux1 thresholds (30_encoding R63), the payload class (R65) and the aux1 rule (R89).
-/

namespace Sys2Proof.Machine

/-- `flip = (P[7][3:0] != 0)` (R88). -/
def flip (p : Payload) : Bool := flipNib p != 0#4

/-- `aux_hi = (AUX_SEL > 0xF0)`, unsigned, strict (R63). -/
def auxHi (p : Payload) : Bool := decide ((auxSel p).toNat > Config.auxHiThresh)

/-- `aux_lo = (AUX_SEL < 0x0F)`, unsigned, strict (R63). -/
def auxLo (p : Payload) : Bool := decide ((auxSel p).toNat < Config.auxLoThresh)

/-- The payload class (R65). -/
def classOf (p : Payload) : PayloadClass :=
  if flip p then
    if auxHi p then .flipHi else if auxLo p then .flipLo else .flipDead
  else .noflip

/-- `a`, the value committed to aux1, given the value aux1 held before (R89). -/
def aux1Next (p : Payload) (old : Int) : Int :=
  if flip p && auxHi p then Config.auxHiVal
  else if flip p && auxLo p then Config.auxLoVal
  else old

end Sys2Proof.Machine
end

