-- ==== Sys2Proof/WellFormed.lean ====
section
/-!
DEFINITION. Well-formedness of an operation: a DECODE named by a class carries a payload of that class (30_encoding R65,
R69). Every other term is well-formed: no payload value is illegal (R66).
-/

namespace Sys2Proof

/-- The operation's payload is of the class its name says (R65). -/
def wellFormed : Instr → Bool
  | .reset _ _ => true
  | .idle _ => true
  | .decodeNoflip p => Machine.classOf p == .noflip
  | .decodeFlipHi p => Machine.classOf p == .flipHi
  | .decodeFlipLo p => Machine.classOf p == .flipLo
  | .decodeFlipDead p => Machine.classOf p == .flipDead
  | .decodeUnbound => true
  | .reqWhileBusy _ => true

end Sys2Proof
end

