-- ==== Sys2Proof/Decode.lean ====
section
/-!
DEFINITION. Decoding: the read bus to a payload (20_memory R42; 30_encoding R61), the trigger vector to an operation
(30_encoding R60, R65, R67; 60_exceptions R144), and a byte form of an operation for the host's probes; after each, its
encoder.
-/

namespace Sys2Proof

/-- Byte `i` of the payload is `rd_data[8i+7:8i]` (R42, R61). -/
def payloadOfBus (w : Bus) : Payload :=
  { p0 := w.extractLsb' 0 8,  p1 := w.extractLsb' 8 8,  p2 := w.extractLsb' 16 8,
    p3 := w.extractLsb' 24 8, p4 := w.extractLsb' 32 8, p5 := w.extractLsb' 40 8,
    p6 := w.extractLsb' 48 8, p7 := w.extractLsb' 56 8, p8 := w.extractLsb' 64 8 }

/-- The bus word of a payload, most-significant byte P[8] first (R69). -/
def busOfPayload (p : Payload) : Bus :=
  p.p8 ++ p.p7 ++ p.p6 ++ p.p5 ++ p.p4 ++ p.p3 ++ p.p2 ++ p.p1 ++ p.p0

/-- Byte `i` of a payload, by its index (R29: 0 to 8). -/
def payloadByte (p : Payload) : Fin 9 → Byte
  | 0 => p.p0 | 1 => p.p1 | 2 => p.p2 | 3 => p.p3 | 4 => p.p4
  | 5 => p.p5 | 6 => p.p6 | 7 => p.p7 | 8 => p.p8

/-- `rst` of a trigger vector (R60). -/
def trigRst (t : Trigger) : Bool := t.getLsbD 2
/-- `bound` of a trigger vector (R60). -/
def trigBound (t : Trigger) : Bool := t.getLsbD 1
/-- `dec_req` of a trigger vector (R60). -/
def trigDecReq (t : Trigger) : Bool := t.getLsbD 0

/-- The trigger vector `{rst, bound, dec_req}` (R60). -/
def trigOf (rst bound decReq : Bool) : Trigger :=
  (BitVec.ofBool rst ++ BitVec.ofBool bound) ++ BitVec.ofBool decReq

/-- What selects an operation: the trigger, the `busy` state (format TRIG+BUSY) and the bus a DECODE reads (format
TRIG+FRAME) (30_encoding, opening; R67). -/
structure OpWord where
  busy : Bool
  trig : Trigger
  rdData : Bus
  deriving DecidableEq, Repr

/-- The DECODE operation of a payload, named by its class (R65). -/
def decodeInstr (p : Payload) : Instr :=
  match Machine.classOf p with
  | .noflip => .decodeNoflip p
  | .flipHi => .decodeFlipHi p
  | .flipLo => .decodeFlipLo p
  | .flipDead => .decodeFlipDead p

/-- The one operation a sample selects: total, by the precedence of R60 and R144 (rows 2 to 5). With `busy = 1` a request
is REQ_WHILE_BUSY whatever `bound` is (R123; DEDUCED where `bound = 0`, log entry 17). -/
def decodeOp (w : OpWord) : Instr :=
  if trigRst w.trig then .reset (trigBound w.trig) (trigDecReq w.trig)
  else if !trigDecReq w.trig then .idle (trigBound w.trig)
  else if w.busy then .reqWhileBusy (trigBound w.trig)
  else if trigBound w.trig then decodeInstr (payloadOfBus w.rdData)
  else .decodeUnbound

/-- The operation is a DECODE, of whichever class. -/
def isDecode : Instr → Bool
  | .decodeNoflip _ | .decodeFlipHi _ | .decodeFlipLo _ | .decodeFlipDead _ => true
  | .reset _ _ | .idle _ | .decodeUnbound | .reqWhileBusy _ => false

/-- The word of an operation (R69: "A line's encoding is its trigger vector, plus for DECODE the rd_data word"). -/
def encode : Instr → OpWord
  | .reset b d => ⟨false, trigOf true b d, 0⟩
  | .idle b => ⟨false, trigOf false b false, 0⟩
  | .decodeNoflip p => ⟨false, trigOf false true true, busOfPayload p⟩
  | .decodeFlipHi p => ⟨false, trigOf false true true, busOfPayload p⟩
  | .decodeFlipLo p => ⟨false, trigOf false true true, busOfPayload p⟩
  | .decodeFlipDead p => ⟨false, trigOf false true true, busOfPayload p⟩
  | .decodeUnbound => ⟨false, trigOf false false true, 0⟩
  | .reqWhileBusy b => ⟨true, trigOf false b true, 0⟩

/-! The byte form (DESIGN CHOICE, log entry 2): one byte `{0000, busy, rst, bound, dec_req}`, and after it for a DECODE
the nine payload bytes, P[0] first. -/

/-- Why bytes are no operation. -/
inductive DecodeError where
  /-- no byte at all -/
  | empty
  /-- bits 7..4 of the first byte are not zero: the trigger is 3 bits wide, and no other width exists (R68) -/
  | reservedBits
  /-- fewer than nine bytes follow a DECODE's trigger: the block reads exactly nine (R45, R68) -/
  | truncated
  deriving DecidableEq, Repr

/-- The first nine bytes of a list as a payload, and the rest. -/
def takePayload : List Byte → Option (Payload × List Byte)
  | b0 :: b1 :: b2 :: b3 :: b4 :: b5 :: b6 :: b7 :: b8 :: rest =>
    some (⟨b0, b1, b2, b3, b4, b5, b6, b7, b8⟩, rest)
  | _ => none

/-- A payload as its nine bytes, P[0] first (R69). -/
def payloadBytes (p : Payload) : List Byte := [p.p0, p.p1, p.p2, p.p3, p.p4, p.p5, p.p6, p.p7, p.p8]

/-- Decode one operation from bytes, total: the operation and the bytes after it, or a named rejection. -/
def decodeBytes : List Byte → Except DecodeError (Instr × List Byte)
  | [] => .error .empty
  | b :: rest =>
    if b.extractLsb' 4 4 != 0#4 then .error .reservedBits
    else
      let busy := b.getLsbD 3
      let trig := b.extractLsb' 0 3
      if isDecode (decodeOp ⟨busy, trig, 0⟩) then
        match takePayload rest with
        | some (p, rest') => .ok (decodeOp ⟨busy, trig, busOfPayload p⟩, rest')
        | none => .error .truncated
      else .ok (decodeOp ⟨busy, trig, 0⟩, rest)

/-- The first byte of an operation's byte form. -/
def opByte (w : OpWord) : Byte := (0#4 ++ BitVec.ofBool w.busy) ++ w.trig

/-- The byte form of an operation. -/
def encodeBytes (i : Instr) : List Byte :=
  opByte (encode i) :: (if isDecode i then payloadBytes (payloadOfBus (encode i).rdData) else [])

/-- The first `n` bytes of a number whose bit 0 is the first byte's least-significant bit. -/
def bytesOfNat : Nat → Nat → List Byte
  | 0, _ => []
  | n + 1, w => BitVec.ofNat 8 w :: bytesOfNat n (w / 256)

/-- The bits of a table word: those above `nbits` are 0. -/
def tableBits (nbits w : Nat) : Nat := w % 2 ^ nbits

/-- What the decoder reads from an instruction whose bits are `w`, bit 0 the least-significant bit of the first byte, the
bits above `nbits` 0: ten bytes hold the longest operation. -/
def decodeTableWord (nbits w : Nat) : Option Instr :=
  match decodeBytes (bytesOfNat 10 (tableBits nbits w)) with
  | .ok (i, _) => some i
  | .error _ => none

end Sys2Proof
end

