-- ==== Sys2Proof/Machine/State.lean ====
section
/-!
DEFINITION. The state of the block: the tuple of 10_state R20 (CH, PB, FAULT, HIST), the cycle-level phase and output
pulses of R25 and R33, and the host's pending input samples; the reasons a step can stop; the reset state (R33, R154).
-/

namespace Sys2Proof.Machine

/-- The channel registers CH[0] to CH[5], in the source's order (R21). -/
structure Channels where
  /-- CH[0], throttle -/
  thr : ChanWord
  /-- CH[1], roll -/
  rol : ChanWord
  /-- CH[2], pitch -/
  pit : ChanWord
  /-- CH[3], yaw -/
  yaw : ChanWord
  /-- CH[4], the bistable flip-trick channel -/
  aux1 : ChanWord
  /-- CH[5], never written by a DECODE (R24, R90) -/
  aux2 : ChanWord
  deriving DecidableEq, Repr

/-- The fault mark's values (R31, R141). -/
inductive FaultCode where
  /-- code 0: no fault -/
  | none
  /-- code 1: a decode request before `Bound` (R122) -/
  | decodeUnbound
  /-- code 2: a decode request during a cycle-level DECODE (R123) -/
  | reqWhileBusy
  deriving DecidableEq, Repr

/-- The stage a cycle-level DECODE does next (log entry 7). The commit and the failsafe reset are one stage: no RESET and no
further request can fall between them, so an abandoned DECODE has recorded no EV_COMMIT (R120, R123). -/
inductive Stage where
  /-- waiting for the transport's answer, `rd_req` held at 1 (R81) -/
  | read
  /-- R82 -/
  | flush
  /-- R83 -/
  | clear
  /-- R84 to R92 -/
  | commit
  deriving DecidableEq, Repr

/-- The cycle-level phase (R25). -/
inductive Phase where
  | idle
  | busy (next : Stage)
  deriving DecidableEq, Repr

/-- The machine's state. -/
structure State where
  /-- CH[0..5] (R21) -/
  ch : Channels
  /-- PB[0..8], or no value (R28, R33; log entry 5) -/
  pb : Option Payload
  /-- FAULT (R31) -/
  faultMark : FaultCode
  /-- HIST, oldest first (R32) -/
  hist : List Event
  /-- the cycle-level phase (R25) -/
  phase : Phase
  /-- the pulse `flush_rx` (R35) -/
  flushRx : Bool
  /-- the pulse `clr_status` (R35) -/
  clrStatus : Bool
  /-- the pulse `fs_clr` (R35) -/
  fsClr : Bool
  /-- the MODEL's own: input samples the host has supplied and no step has sampled yet, oldest first (R154; log entry 1) -/
  script : List Stimulus
  /-- the MODEL's own: how many samples were drawn from the free host (log entry 1) -/
  draws : Nat
  deriving DecidableEq, Repr

/-- Why a step stops with a fault. -/
inductive Fault where
  /-- Raised by every operation, and by a step, in a state whose FAULT is not NONE: "A state with `FAULT != NONE` has no
  further step" (R142). Safe: the model stops where the spec says it stops. -/
  | halted (code : FaultCode)
  /-- Raised by a cycle-level DECODE that reaches its commit with no value in PB. No run reaches such a state (log entry
  9). Safe: the model stops. -/
  | payloadMissing
  deriving DecidableEq, Repr

/-- Why a step is refused. -/
inductive Refusal where
  /-- Raised by an arm of `exec` whose instruction has no meaning yet; no arm does. Safe. -/
  | notModelled (mnemonic : String)
  /-- Raised by `launch` for a build whose payload size is not 9: "The model must refuse such a build" (R7). Safe. -/
  | payloadSize (n : Nat)
  deriving DecidableEq, Repr

/-- The outcome of a step or of an operation. -/
abbrev Result := Host.Outcome State Fault Refusal

/-- The channel registers after RESET and at launch (R33). -/
def Channels.zero : Channels :=
  { thr := 0x0000#16, rol := 0x0000#16, pit := 0x0000#16, yaw := 0x0000#16, aux1 := 0x0000#16, aux2 := 0x0000#16 }

/-- The state a launch starts in (R33, R154, R160): the reset values, FAULT NONE, HIST empty, nothing supplied by the
host yet. -/
def State.reset : State :=
  { ch := Channels.zero, pb := Option.none, faultMark := .none, hist := [], phase := .idle,
    flushRx := false, clrStatus := false, fsClr := false, script := [], draws := 0 }

end Sys2Proof.Machine
end

