-- ==== Sys2Proof/Machine/Ops.lean ====
section
/-!
DEFINITION. The named operations over the state: recording an event, the transport and side-effect primitives of 00_scope
R12, the steps of a DECODE (40_frame_decode R81 to R92), raising a fault (00_scope R13), and the guard every operation
stands behind (60_exceptions R142).
-/

namespace Sys2Proof.Machine

/-- Append one event to HIST (R32). -/
def record (e : Event) (s : State) : State := { s with hist := s.hist ++ [e] }

/-- An operation is taken only in a state with FAULT = NONE (R80, R120, R142). -/
def taken (s : State) (f : State → State) : Result :=
  if s.faultMark = .none then .next (f s) else .fault (.halted s.faultMark)

/-- `raise Fault(code)`: TAKING AN EXCEPTION on this block. It sets the sticky mark and writes nothing else (R13, R142,
R145: nothing is saved, no mode changes, there is no vector). There is no return (R146). -/
def raiseFault (code : FaultCode) (s : State) : State := { s with faultMark := code }

/-- The read step: EV_READ(9, P), and `PB[0..8] <- P[0..8]` (R81). -/
def readStep (p : Payload) (s : State) : State :=
  { record (.read Config.payloadSize p) s with pb := some p }

/-- `TransportFlushRx()`: EV_FLUSH_RX, and the pulse `flush_rx` (R82; log entry 12 on the pulses). -/
def flushStep (s : State) : State := { record .flushRx s with flushRx := true }

/-- `TransportClearStatus()`: EV_CLEAR_STATUS, and the pulse `clr_status` (R83). -/
def clearStep (s : State) : State := { record .clearStatus s with clrStatus := true }

/-- The five registers a commit writes; CH[5] is not written (R90, R91). -/
def Channels.committed (c : Channels) (t r p y a : Int) : Channels :=
  { thr := to16 t, rol := to16 r, pit := to16 p, yaw := to16 y, aux1 := to16 a, aux2 := c.aux2 }

/-- `Commit(t, r, p, y, a)`: CH[0..4] written together, and EV_COMMIT (R91). -/
def commit (t r p y a : Int) (s : State) : State :=
  { record (.commit t r p y a) s with ch := s.ch.committed t r p y a }

/-- The commit of a payload's four analog values (R84 to R87) with the aux1 value `a`. -/
def commitPayload (p : Payload) (a : Int) (s : State) : State :=
  commit (throttle p) (roll p) (pitch p) (yaw p) a s

/-- `FailsafeReset()`: EV_FS_CLR, and the pulse `fs_clr` (R92). -/
def failsafeReset (s : State) : State := { record .fsClr s with fsClr := true }

/-- The integer aux1 holds before a DECODE's commit, the value a hold commits again (R89; log entry 11). -/
def aux1Held (s : State) : Int := signed s.ch.aux1

/-- The whole DECODE of R80, with the aux1 value `a` its class gives. -/
def decodeWith (p : Payload) (a : Int) (s : State) : State :=
  failsafeReset (commitPayload p a (clearStep (flushStep (readStep p s))))

/-- The whole DECODE of R80, its aux1 value by R89. -/
def decodeFrame (p : Payload) (s : State) : State := decodeWith p (aux1Next p (aux1Held s)) s

/-- What RESET does (R120): every channel to its reset value, PB to no value, EV_RESET, the phase to IDLE and the pulses to
0; FAULT is not changed. -/
def resetBlock (s : State) : State :=
  { record .reset s with ch := Channels.zero, pb := Option.none, phase := .idle, flushRx := false, clrStatus := false, fsClr := false }

/-- `busy`: 1 while a cycle-level DECODE is in progress (R25, R35). -/
def State.busy (s : State) : Bool := s.phase != .idle

/-- `rd_req`: held at 1 until the transport answers (R81; log entry 8). -/
def State.rdReq (s : State) : Bool := s.phase == .busy .read

/-- The pulses of the step before have lasted their one cycle (R35; log entry 12). -/
def lowerPulses (s : State) : State := { s with flushRx := false, clrStatus := false, fsClr := false }

/-- The sample of the input ports for the next step: the script's oldest, or, beyond the script, whatever the host drives
(R150, R154; log entry 1). -/
def nextSample (s : State) : Stimulus :=
  match s.script with
  | x :: _ => x
  | [] => Config.hostStimulus s.draws

/-- The state once that sample has been taken. -/
def takeSample (s : State) : State :=
  match s.script with
  | _ :: rest => { s with script := rest }
  | [] => { s with draws := s.draws + 1 }

end Sys2Proof.Machine
end

