-- ==== Sys2Proof/Machine/Control.lean ====
section
/-!
DEFINITION. The meanings of the control operations RESET, IDLE, DECODE_UNBOUND and REQ_WHILE_BUSY (41_control_ops R120 to
R123).
-/

namespace Sys2Proof.Machine

/-- RESET (R120). -/
def execReset (s : State) : Result := taken s resetBlock

/-- IDLE: no state changes and no event is recorded (R121). -/
def execIdle (s : State) : Result := taken s id

/-- DECODE_UNBOUND: `raise Fault(DECODE_UNBOUND)`, code 1 (R122). -/
def execDecodeUnbound (s : State) : Result := taken s (raiseFault .decodeUnbound)

/-- REQ_WHILE_BUSY: `raise Fault(REQ_WHILE_BUSY)`, code 2; the DECODE in progress is not completed (R123). -/
def execReqWhileBusy (s : State) : Result := taken s (raiseFault .reqWhileBusy)

end Sys2Proof.Machine
end

