-- ==== Sys2Proof/Machine/Frame.lean ====
section
/-!
DEFINITION. The meanings of DECODE, one for each payload class (40_frame_decode R80, R93 to R96).
-/

namespace Sys2Proof.Machine

/-- DECODE.NOFLIP: rule R80 with `a <- CH[4]` (R93). -/
def execDecodeNoflip (p : Payload) (s : State) : Result := taken s fun s => decodeWith p (aux1Held s) s

/-- DECODE.FLIP_HI: rule R80 with `a <- +500` (R94). -/
def execDecodeFlipHi (p : Payload) (s : State) : Result := taken s (decodeWith p Config.auxHiVal)

/-- DECODE.FLIP_LO: rule R80 with `a <- -500` (R95). -/
def execDecodeFlipLo (p : Payload) (s : State) : Result := taken s (decodeWith p Config.auxLoVal)

/-- DECODE.FLIP_DEAD: rule R80 with `a <- CH[4]` (R96). -/
def execDecodeFlipDead (p : Payload) (s : State) : Result := taken s fun s => decodeWith p (aux1Held s) s

end Sys2Proof.Machine
end

