-- ==== Sys2Proof/Machine/Dispatch.lean ====
section
/-!
DEFINITION. The dispatch of an operation to its meaning, one arm per constructor of Instr.
-/

namespace Sys2Proof.Machine

def exec (i : Instr) (s : State) : Host.Outcome State Fault Refusal :=
  match i with
  | .reset _ _ => Sys2Proof.Machine.execReset s
  | .idle _ => Sys2Proof.Machine.execIdle s
  | .decodeNoflip p => Sys2Proof.Machine.execDecodeNoflip p s
  | .decodeFlipHi p => Sys2Proof.Machine.execDecodeFlipHi p s
  | .decodeFlipLo p => Sys2Proof.Machine.execDecodeFlipLo p s
  | .decodeFlipDead p => Sys2Proof.Machine.execDecodeFlipDead p s
  | .decodeUnbound => Sys2Proof.Machine.execDecodeUnbound s
  | .reqWhileBusy _ => Sys2Proof.Machine.execReqWhileBusy s

end Sys2Proof.Machine
end

