-- ==== Sys2Proof/Machine/Cycle.lean ====
section
/-!
DEFINITION. One clock cycle of a cycle-level realisation (10_state R25; 40_frame_decode R81 to R83, R91, R92;
70_reset_and_hazards R161, R165, R168, R169): accepting a DECODE, the read handshake, and the steps that follow it, each
the same shared operation the atomic DECODE is made of. And what a step does with a sample of either kind.
-/

namespace Sys2Proof.Machine

/-- Put the phase at `ph`. -/
def setPhase (ph : Phase) (s : State) : State := { s with phase := ph }

/-- A DECODE is accepted: the block is BUSY and raises `rd_req` (R25, R81). That is all its accepting cycle does: `rd_ack` is
the answer to `rd_req` (R34), so there is none before a cycle in which `rd_req` is up (DEDUCED, log entry 7). -/
def accept (s : State) : State := setPhase (.busy .read) s

/-- The read handshake: `rd_data` is sampled only in the cycle `rd_ack = 1`, and only while `rd_req` is held (R81, R165). -/
def answerRead (rdAck : Bool) (rdData : Bus) (s : State) : State :=
  if s.phase = .busy .read ∧ rdAck = true then setPhase (.busy .flush) (readStep (payloadOfBus rdData) s) else s

/-- The next stage of the DECODE in progress, once its read is done: the flush (R82), the status clear (R83), or the commit
with the failsafe reset (R84 to R92), which come in one cycle, so that a RESET leaves neither event or both (R120; DEDUCED,
log entry 7). Later stages read the payload from PB (R81). The last one puts the phase at IDLE in the very step that pulses
`fs_clr` (R25 says no more than that BUSY lasts to that cycle; DESIGN CHOICE, log entry 21). -/
def stageStep (s : State) : Result :=
  match s.phase with
  | .idle => .next s
  | .busy .read => .next s
  | .busy .flush => .next (setPhase (.busy .clear) (flushStep s))
  | .busy .clear => .next (setPhase (.busy .commit) (clearStep s))
  | .busy .commit =>
    match s.pb with
    | none => .fault .payloadMissing
    | some p => .next (setPhase .idle (failsafeReset (commitPayload p (aux1Next p (aux1Held s)) s)))

/-- Up to `pace` further stages of the DECODE in progress. -/
def advance : Nat → State → Result
  | 0, s => .next s
  | n + 1, s =>
    match stageStep s with
    | .next t => advance n t
    | .fault r => .fault r
    | .refused r => .refused r

/-- What the DECODE in progress does in one cycle. -/
def cycleWork (rdAck : Bool) (rdData : Bus) (pace : Nat) (s : State) : Result :=
  advance pace (answerRead rdAck rdData s)

/-- One clock cycle. A DECODE its trigger selects is accepted and no more; which class it is is known only from its read
(R65), so `rd_data` is not looked at here (R165). Any other operation the trigger selects (R60, R123, R144) is done, and
then, unless it raised a fault (R123: the DECODE in progress is not completed), the work of the DECODE in progress. After a
RESET there is none (R120). -/
def cycle (trig : Trigger) (rdAck : Bool) (rdData : Bus) (pace : Nat) (s : State) : Result :=
  let i := decodeOp ⟨s.busy, trig, 0⟩
  if isDecode i then .next (accept s)
  else
    match exec i s with
    | .next t => if t.faultMark = .none then cycleWork rdAck rdData pace t else .next t
    | .fault r => .fault r
    | .refused r => .refused r

/-- What a step does with a sample: a transaction-level sample runs the whole operation it selects (R60), a cycle-level
sample one clock cycle. -/
def respond (x : Stimulus) (s : State) : Result :=
  match x with
  | .transaction trig rdData => exec (decodeOp ⟨s.busy, trig, rdData⟩) s
  | .cycle trig rdAck rdData pace => cycle trig rdAck rdData pace s

/-- The bytes of a table word placed where the next step samples its inputs: the trigger and the bus as a
transaction-level sample at the front of the script, and the phase its `busy` bit calls for (log entry 14). -/
def placeTableWord (s : State) (nbits w : Nat) : State :=
  let bits := tableBits nbits w
  { s with
    script := .transaction (BitVec.ofNat 3 bits) (BitVec.ofNat 72 (bits / 256)) :: s.script,
    phase := if bits.testBit 3 then .busy .read else .idle }

end Sys2Proof.Machine
end

