-- ==== Sys2Proof/Machine/Step.lean ====
section
/-!
DEFINITION. One step of the machine (30_encoding R60; 60_exceptions R142, R144): no step from a faulted state; else sample
the inputs, end the one-cycle pulses of the step before, and do what the sample says.
-/

namespace Sys2Proof.Machine

/-- One step. -/
def step (s : State) : Host.Outcome State Fault Refusal :=
  if s.faultMark = .none then respond (nextSample s) (lowerPulses (takeSample s)) else .fault (.halted s.faultMark)

/-- The state with an operation's table word where the next step samples its inputs (log entry 14). -/
def State.withFetchWord (s : State) (nbits w : Nat) : State := placeTableWord s nbits w

end Sys2Proof.Machine
end

