-- ==== Sys2Proof/Machine/Datapath.lean ====
section
/-!
DEFINITION. The bit-level forms for a hardware datapath (30_encoding R64), beside the integer forms of rule R63 they are
said to equal. The meanings use the integer forms.
-/

namespace Sys2Proof.Machine

/-- `{6'b0, b, 2'b00}`: the shifted byte as a 16-bit word (R64). -/
def shiftedWord (b : Byte) : ChanWord := (0#6 ++ b) ++ 0#2

/-- `axis_raw(b) = sext_16({~b[7], b[6:0], 2'b00})` (R64). -/
def axisRawWord (b : Byte) : ChanWord :=
  (((~~~(b.extractLsb' 7 1) ++ b.extractLsb' 0 7) ++ 0#2 : BitVec (1 + 7 + 2))).signExtend 16

/-- `thr = (THR_RAW >= 0xFB) ? 1000 : {6'b0, THR_RAW, 2'b00}` (R64). -/
def throttleWord (b : Byte) : ChanWord := if 0xFB#8 ≤ b then 1000#16 else shiftedWord b

/-- `axis(b) = (b <= 0x02) ? -500 : (b >= 0xFE) ? +500 : axis_raw(b)` (R64). -/
def axisWord (b : Byte) : ChanWord :=
  if b ≤ 0x02#8 then 0xFE0C#16 else if 0xFE#8 ≤ b then 500#16 else axisRawWord b

/-- `flip = FLIP_NIB[3] | FLIP_NIB[2] | FLIP_NIB[1] | FLIP_NIB[0]` (R64). -/
def flipBits (n : BitVec 4) : Bool := n.getLsbD 3 || n.getLsbD 2 || n.getLsbD 1 || n.getLsbD 0

/-- `aux_hi = (AUX_SEL[7:4] == 4'hF) & (AUX_SEL[3:0] != 4'h0)` (R64). -/
def auxHiBits (b : Byte) : Bool := b.extractLsb' 4 4 == 0xF#4 && b.extractLsb' 0 4 != 0#4

/-- `aux_lo = (AUX_SEL[7:4] == 4'h0) & (AUX_SEL[3:0] != 4'hF)` (R64). -/
def auxLoBits (b : Byte) : Bool := b.extractLsb' 4 4 == 0#4 && b.extractLsb' 0 4 != 0xF#4

end Sys2Proof.Machine
end

