-- ==== Sys2Proof/Machine/Outputs.lean ====
section
/-!
DEFINITION. What the host reads and how a run starts and ends: the output ports (10_state R35), the consumer's reads
(R22, R47), the launch of a build (00_scope R7; 60_exceptions R154, R160).
-/

namespace Sys2Proof.Machine

/-- The channels by name (R21). -/
inductive Channel where
  | thr | rol | pit | yaw | aux1 | aux2
  deriving DecidableEq, Repr

/-- A channel's index in CH (R21). -/
def channelIndex : Channel → Nat
  | .thr => 0 | .rol => 1 | .pit => 2 | .yaw => 3 | .aux1 => 4 | .aux2 => 5

/-- What the consumer reads on a channel's port: a function of the state, so it has no side effect (R35, R47). -/
def consumerRead (c : Channel) (s : State) : ChanWord :=
  match c with
  | .thr => s.ch.thr | .rol => s.ch.rol | .pit => s.ch.pit | .yaw => s.ch.yaw | .aux1 => s.ch.aux1 | .aux2 => s.ch.aux2

/-- The output ports (R35). -/
structure Outputs where
  chThr : ChanWord
  chRol : ChanWord
  chPit : ChanWord
  chYaw : ChanWord
  chAux1 : ChanWord
  chAux2 : ChanWord
  rdReq : Bool
  rdSize : BitVec 4
  flushRx : Bool
  clrStatus : Bool
  fsClr : Bool
  busy : Bool
  deriving DecidableEq, Repr

/-- The ports' values in a state (R35): what they show from a step's edge to the next one. How `busy`, `rd_req` and the
pulses pair within a cycle is left open by R25 (DESIGN CHOICE, log entry 21): `busy` reads 0 already in the state that shows
`fs_clr` = 1. Every cycle-level DECODE shows `busy` and `rd_req` as 1, from its accepting edge to the edge of its answer
(R81). -/
def outputsOf (s : State) : Outputs :=
  { chThr := consumerRead .thr s, chRol := consumerRead .rol s, chPit := consumerRead .pit s,
    chYaw := consumerRead .yaw s, chAux1 := consumerRead .aux1 s, chAux2 := consumerRead .aux2 s,
    rdReq := s.rdReq, rdSize := 0b1001#4, flushRx := s.flushRx, clrStatus := s.clrStatus, fsClr := s.fsClr,
    busy := s.busy }

/-- The launch of a build with payloads of `n` bytes: the reset state for 9, and a refusal for any other size (R7, R154,
R160). -/
def launch (n : Nat) : Result :=
  if n = Config.payloadSize then .next State.reset else .refused (.payloadSize n)

/-- The reset state with the samples a host supplies for a whole run (R154). -/
def launched (xs : List Stimulus) : State := { State.reset with script := xs }

end Sys2Proof.Machine
end

