-- ==== Sys2Proof/Safety.lean ====
section
/-!
DEFINITION. What counts as a safe state and a final one, in the terms the claims use: the value invariants of 10_state R23,
the event order of 20_memory R49, the history's account of the channels, and the end of a run (60_exceptions R154).
-/

namespace Sys2Proof.Safety

open Sys2Proof Sys2Proof.Machine

/-- A state is final when FAULT is NONE and the phase is IDLE (R154). -/
def Final (s : State) : Prop := s.faultMark = .none ∧ s.phase = .idle

/-- The observation of a final state: CH[0..5] and HIST (R154). -/
def observation (s : State) : Channels × List Event := (s.ch, s.hist)

/-- The register's value lies in a range and is a multiple of 4 (R23). -/
def InRange (w : ChanWord) (lo hi : Int) : Prop := lo ≤ w.toInt ∧ w.toInt ≤ hi ∧ (4 : Int) ∣ w.toInt

/-- The value invariants (R23). -/
structure ChannelsLegal (c : Channels) : Prop where
  thr : InRange c.thr 0 1000
  rol : InRange c.rol (-500) 500
  pit : InRange c.pit (-500) 500
  yaw : InRange c.yaw (-500) 500
  aux1 : c.aux1.toInt = -500 ∨ c.aux1.toInt = 0 ∨ c.aux1.toInt = 500
  aux2 : c.aux2.toInt = 0

/-- The event a history may continue with, by the order of one DECODE (R49). `ready` is between transactions. -/
inductive Expect where
  | ready | flush | clear | commit | fsClr
  deriving DecidableEq, Repr

/-- One event against the order of R49. EV_RESET abandons a DECODE in progress, so it may come at any point but between
EV_COMMIT and EV_FS_CLR: an abandoned DECODE has recorded neither (R120). -/
def expectNext : Expect → Event → Option Expect
  | .fsClr, .reset => none
  | _, .reset => some .ready
  | .ready, .read _ _ => some .flush
  | .flush, .flushRx => some .clear
  | .clear, .clearStatus => some .commit
  | .commit, .commit _ _ _ _ _ => some .fsClr
  | .fsClr, .fsClr => some .ready
  | _, _ => none

/-- A whole history, oldest event first, from a given point of the order; `none` where the order is broken. -/
def expectAfter : Expect → List Event → Option Expect
  | q, [] => some q
  | q, e :: es =>
    match expectNext q e with
    | some q' => expectAfter q' es
    | none => none

/-- The event the phase says comes next. -/
def phaseExpects : Phase → Expect
  | .idle => .ready
  | .busy .read => .ready
  | .busy .flush => .flush
  | .busy .clear => .clear
  | .busy .commit => .commit

/-- The history keeps the order of R49 and stands exactly where the phase says. -/
def HistoryOrdered (s : State) : Prop := expectAfter .ready s.hist = some (phaseExpects s.phase)

/-- The payload of the last EV_READ since the last EV_RESET: what PB holds (R28, R33). -/
def lastRead : Option Payload → List Event → Option Payload
  | o, [] => o
  | _, .read _ p :: es => lastRead (some p) es
  | _, .reset :: es => lastRead none es
  | o, .flushRx :: es => lastRead o es
  | o, .clearStatus :: es => lastRead o es
  | o, .commit _ _ _ _ _ :: es => lastRead o es
  | o, .fsClr :: es => lastRead o es

/-- The channels a history accounts for, from given ones: EV_COMMIT writes five, EV_RESET all six (R22, R91, R120). -/
def replay : Channels → List Event → Channels
  | c, [] => c
  | c, .commit t r p y a :: es => replay (c.committed t r p y a) es
  | _, .reset :: es => replay Channels.zero es
  | c, .read _ _ :: es => replay c es
  | c, .flushRx :: es => replay c es
  | c, .clearStatus :: es => replay c es
  | c, .fsClr :: es => replay c es

/-- CH and PB are what the history accounts for (R22, R28, R32). -/
def HistoryAccounts (s : State) : Prop :=
  replay Channels.zero s.hist = s.ch ∧ lastRead none s.hist = s.pb

/-- A cycle-level DECODE past its read has its payload in PB (R81). -/
def PayloadHeld (s : State) : Prop := s.phase = .idle ∨ s.phase = .busy .read ∨ s.pb ≠ none

/-- The pulses show what the events of a step were (R82, R83, R92). -/
def PulsesShow (t : State) (es : List Event) : Prop :=
  t.flushRx = es.contains .flushRx ∧ t.clrStatus = es.contains .clearStatus ∧ t.fsClr = es.contains .fsClr

/-- The trigger vector of an input sample. -/
def sampleTrigger : Stimulus → Trigger
  | .transaction t _ => t
  | .cycle t _ _ _ => t

/-- The analog values of R84 to R87, written out: throttle from byte 0. -/
def throttleValue (b : Byte) : Int := min (4 * (b.toNat : Int)) 1000

/-- The same for an axis byte. -/
def axisValue (b : Byte) : Int := max (-500) (min (4 * (b.toNat : Int) - 512) 500)

/-- What a whole DECODE of payload `p` makes of the tuple of R20, committing the aux1 value `a` (R80, with R81, R90, R91 and
the event order of R49). -/
structure DecodeEffect (p : Payload) (a : Int) (s t : State) : Prop where
  thr : t.ch.thr.toInt = throttleValue p.p0
  rol : t.ch.rol.toInt = axisValue p.p4
  pit : t.ch.pit.toInt = axisValue p.p3
  yaw : t.ch.yaw.toInt = axisValue p.p1
  aux1 : t.ch.aux1.toInt = a
  aux2 : t.ch.aux2 = s.ch.aux2
  pb : t.pb = some p
  fault : t.faultMark = s.faultMark
  hist : t.hist = s.hist ++ [.read 9 p, .flushRx, .clearStatus,
    .commit (throttleValue p.p0) (axisValue p.p4) (axisValue p.p3) (axisValue p.p1) a, .fsClr]

/-- The state at transaction level, the tuple of R20. -/
def tuple (s : State) : Channels × Option Payload × FaultCode × List Event := (s.ch, s.pb, s.faultMark, s.hist)

/-- A clock cycle that accepts a DECODE in an IDLE block: `T = 3'b011` (R60). -/
def Accepts : Stimulus → Prop
  | .cycle t _ _ _ => t = 0b011#3
  | .transaction _ _ => False

/-- A clock cycle in which the host asks for nothing: `rst = 0` and `dec_req = 0` (R121). -/
def Quiet : Stimulus → Prop
  | .cycle t _ _ _ => trigRst t = false ∧ trigDecReq t = false
  | .transaction _ _ => False

/-- A quiet clock cycle in which the transport does not answer. -/
def QuietUnanswered : Stimulus → Prop
  | .cycle t ack _ _ => trigRst t = false ∧ trigDecReq t = false ∧ ack = false
  | .transaction _ _ => False

/-- The payload on `rd_data` in the first of these cycles with `rd_ack = 1` (R81, R165). -/
def firstAnswer : List Stimulus → Option Payload
  | [] => none
  | .cycle _ true rd _ :: _ => some (payloadOfBus rd)
  | .cycle _ false _ _ :: xs => firstAnswer xs
  | .transaction _ _ :: xs => firstAnswer xs

end Sys2Proof.Safety
end

