-- ==== Sys2Proof/Certificates/Slice0/Obligations.lean ====
section
/-!
DEFINITION. The statements about the frame decoder, made from the numbered rules of spec/. The block has no memory (R40),
so no frame speaks of one.
-/

open Sys2Proof Sys2Proof.Machine Sys2Proof.Safety
open Host.Outcome

/-! ### Selecting an operation -/

/-- R60: a transaction-level step samples `T = {rst, bound, dec_req}` and performs exactly the operation of the first row
that matches, on the tuple of R20 as it stands. -/
def Obligations.StepPerformsTheFirstMatchingRow : Prop :=
  ∀ (s : State) (t : Trigger) (rd : Bus) (rest : List Stimulus),
    s.faultMark = .none → s.phase = .idle → s.script = .transaction t rd :: rest →
    ∃ s', tuple s' = tuple s ∧ s'.phase = .idle ∧
      (t.getLsbD 2 = true → step s = exec (.reset (t.getLsbD 1) (t.getLsbD 0)) s') ∧
      (t.getLsbD 2 = false → t.getLsbD 0 = false → step s = exec (.idle (t.getLsbD 1)) s') ∧
      (t.getLsbD 2 = false → t.getLsbD 1 = true → t.getLsbD 0 = true →
        step s = exec (decodeInstr (payloadOfBus rd)) s') ∧
      (t.getLsbD 2 = false → t.getLsbD 1 = false → t.getLsbD 0 = true → step s = exec .decodeUnbound s')

/-- A step runs the decoded operation: from the script's oldest sample, or beyond the script from the free host (log entry
1); before it the one-cycle pulses of the step before end (log entry 12). That a transaction-level sample in a BUSY block
selects its operation with busy = 1 is the model's choice too (log entry 13): the spec does not mix its two levels. -/
def Obligations.StepRunsTheDecodedOperation : Prop :=
  (∀ (s : State) (t : Trigger) (rd : Bus) (rest : List Stimulus),
    s.faultMark = .none → s.script = .transaction t rd :: rest →
    step s = exec (decodeOp ⟨s.busy, t, rd⟩)
      { s with script := rest, flushRx := false, clrStatus := false, fsClr := false }) ∧
  (∀ (s : State) (t : Trigger) (ack : Bool) (rd : Bus) (n : Nat) (rest : List Stimulus),
    s.faultMark = .none → s.script = .cycle t ack rd n :: rest →
    step s = cycle t ack rd n
      { s with script := rest, flushRx := false, clrStatus := false, fsClr := false }) ∧
  (∀ s : State, s.faultMark = .none → s.script = [] →
    step s = respond (Config.hostStimulus s.draws)
      { s with draws := s.draws + 1, flushRx := false, clrStatus := false, fsClr := false })

/-- The precedence within one step, for a sample of either level: FAULT, RESET, the illegal requests, DECODE, IDLE (R144).
At cycle level a DECODE is accepted, the phase leaving IDLE and nothing else changing, and an IDLE cycle of a BUSY block lets the DECODE in progress work on (log entry 7). The model's choices in it: the sample and the
pulses around the operation (log entries 1 and 12); a transaction-level sample of a BUSY block selects with busy = 1, and if
it is IDLE the DECODE in progress waits (log entry 13); a request in a BUSY block with bound = 0 raises REQ_WHILE_BUSY, where
R122 and R123 both match and R144 does not rank them (log entry 17). -/
def Obligations.PrecedenceOfSimultaneousInputs : Prop :=
  ∀ s : State,
    (s.faultMark ≠ .none → step s = .fault (.halted s.faultMark)) ∧
    (s.faultMark = .none → ∀ t, sampleTrigger (nextSample s) = t →
      (t.getLsbD 2 = true → step s = .next (resetBlock (lowerPulses (takeSample s)))) ∧
      (t.getLsbD 2 = false → t.getLsbD 0 = true → t.getLsbD 1 = false → s.busy = false →
        step s = .next (raiseFault .decodeUnbound (lowerPulses (takeSample s)))) ∧
      (t.getLsbD 2 = false → t.getLsbD 0 = true → s.busy = true →
        step s = .next (raiseFault .reqWhileBusy (lowerPulses (takeSample s)))) ∧
      (t.getLsbD 2 = false → t.getLsbD 0 = true → t.getLsbD 1 = true → s.busy = false →
        (∀ rd, nextSample s = .transaction t rd →
          step s = exec (decodeInstr (payloadOfBus rd)) (lowerPulses (takeSample s))) ∧
        (∀ ack rd n, nextSample s = .cycle t ack rd n →
          step s = .next (setPhase (.busy .read) (lowerPulses (takeSample s))))) ∧
      (t.getLsbD 2 = false → t.getLsbD 0 = false → s.busy = false →
        step s = .next (lowerPulses (takeSample s))) ∧
      (t.getLsbD 2 = false → t.getLsbD 0 = false → s.busy = true →
        (∀ rd, nextSample s = .transaction t rd → step s = .next (lowerPulses (takeSample s))) ∧
        (∀ ack rd n, nextSample s = .cycle t ack rd n →
          step s = cycleWork ack rd n (lowerPulses (takeSample s)))))

/-! ### Encoding -/

/-- Decoding the word of a well-formed operation gives the operation back, every operand at every value. -/
def Obligations.DecodeEncodeAgree : Prop :=
  ∀ i : Instr, wellFormed i = true → decodeOp (encode i) = i

/-- Encoding what a sample decodes to gives the sample's trigger back, for a DECODE its bus word too, and the busy bit for a
request while busy (R67, R123). The model's choices in it: a busy request with bound = 0 is REQ_WHILE_BUSY (log entry 17), and
the don't-care trigger bits are kept as fields of the operation (log entry 18). -/
def Obligations.EncodeDecodeKeepsTheSample : Prop :=
  ∀ w : OpWord,
    wellFormed (decodeOp w) = true ∧
    (encode (decodeOp w)).trig = w.trig ∧
    (isDecode (decodeOp w) = true → (encode (decodeOp w)).rdData = w.rdData) ∧
    ((encode (decodeOp w)).busy = true ↔ w.busy = true ∧ w.trig.getLsbD 2 = false ∧ w.trig.getLsbD 0 = true)

/-- The byte form (log entry 2) decodes back, whatever bytes follow it. -/
def Obligations.ByteFormDecodeEncodeAgree : Prop :=
  ∀ (i : Instr) (rest : List Byte), wellFormed i = true → decodeBytes (encodeBytes i ++ rest) = .ok (i, rest)

/-- R61, R42: byte `i` of the payload is on `rd_data[8i+7:8i]`, and each field on the bus bits the table gives it. -/
def Obligations.PayloadFieldsOnTheBus : Prop :=
  (∀ (w : Bus) (i : Fin 9) (j : Nat), j < 8 →
    (payloadByte (payloadOfBus w) i).getLsbD j = w.getLsbD (8 * i.val + j)) ∧
  (∀ w : Bus,
    thrRaw (payloadOfBus w) = w.extractLsb' 0 8 ∧ yawRaw (payloadOfBus w) = w.extractLsb' 8 8 ∧
    pitRaw (payloadOfBus w) = w.extractLsb' 24 8 ∧ auxSel (payloadOfBus w) = w.extractLsb' 24 8 ∧
    rolRaw (payloadOfBus w) = w.extractLsb' 32 8 ∧ flipNib (payloadOfBus w) = w.extractLsb' 56 4) ∧
  (∀ p : Payload, payloadOfBus (busOfPayload p) = p)

/-- Words written out from the opcode table and from vectors V6, V7, V8 and V10 decode to the operations they stand for. The
three table words are in the model's byte form (log entries 2 and 15: the model's choice). The busy request, trigger 011 with
busy = 1, is REQ_WHILE_BUSY by R67 and R123. -/
def Obligations.WrittenOutWordsDecode : Prop :=
  decodeTableWord 8 0b100 = some (.reset false false) ∧
  decodeTableWord 8 0b000 = some (.idle false) ∧
  decodeTableWord 8 0b001 = some .decodeUnbound ∧
  decodeOp ⟨true, 0b011#3, 0⟩ = .reqWhileBusy true ∧
  decodeOp ⟨false, 0b011#3, 0x0001000080F1008080#72⟩ =
    .decodeFlipHi ⟨0x80, 0x80, 0x00, 0xF1, 0x80, 0x00, 0x00, 0x01, 0x00⟩ ∧
  decodeOp ⟨false, 0b011#3, 0x00080000800E008080#72⟩ =
    .decodeFlipLo ⟨0x80, 0x80, 0x00, 0x0E, 0x80, 0x00, 0x00, 0x08, 0x00⟩ ∧
  decodeOp ⟨false, 0b011#3, 0x000F000080F0008080#72⟩ =
    .decodeFlipDead ⟨0x80, 0x80, 0x00, 0xF0, 0x80, 0x00, 0x00, 0x0F, 0x00⟩ ∧
  decodeOp ⟨false, 0b011#3, 0x00F000008005008080#72⟩ =
    .decodeNoflip ⟨0x80, 0x80, 0x00, 0x05, 0x80, 0x00, 0x00, 0xF0, 0x00⟩

/-! ### The DECODE transaction -/

/-- R80: a DECODE of any payload, in any state with FAULT = NONE, completes, with the effect of the rule's pseudocode. -/
def Obligations.DecodeTransactionResult : Prop :=
  ∀ (p : Payload) (s : State), s.faultMark = .none →
    ∃ t, exec (decodeInstr p) s = .next t ∧
      DecodeEffect p
        (if p.p7.toNat % 16 ≠ 0 ∧ p.p3.toNat > 0xF0 then 500
         else if p.p7.toNat % 16 ≠ 0 ∧ p.p3.toNat < 0x0F then -500 else s.ch.aux1.toInt) s t

/-- R93: DECODE.NOFLIP holds aux1, whatever P[3] and the high nibble of P[7] are. -/
def Obligations.DecodeNoflipResult : Prop :=
  ∀ (p : Payload) (s : State), s.faultMark = .none → p.p7.toNat % 16 = 0 →
    decodeInstr p = .decodeNoflip p ∧
    ∃ t, exec (.decodeNoflip p) s = .next t ∧ DecodeEffect p s.ch.aux1.toInt s t ∧ t.ch.aux1 = s.ch.aux1

/-- R94: DECODE.FLIP_HI sets aux1 to +500, and the pitch is in [452, 500]. -/
def Obligations.DecodeFlipHiResult : Prop :=
  ∀ (p : Payload) (s : State), s.faultMark = .none → p.p7.toNat % 16 ≠ 0 → p.p3.toNat > 0xF0 →
    decodeInstr p = .decodeFlipHi p ∧
    ∃ t, exec (.decodeFlipHi p) s = .next t ∧ DecodeEffect p 500 s t ∧ t.ch.aux1 = 0x01F4#16 ∧
      452 ≤ t.ch.pit.toInt ∧ t.ch.pit.toInt ≤ 500 ∧
      (p.p3 = 0xF1#8 → t.ch.pit.toInt = 452) ∧ (p.p3 = 0xFF#8 → t.ch.pit.toInt = 500)

/-- R95: DECODE.FLIP_LO sets aux1 to -500, and the pitch is in [-500, -456]. -/
def Obligations.DecodeFlipLoResult : Prop :=
  ∀ (p : Payload) (s : State), s.faultMark = .none → p.p7.toNat % 16 ≠ 0 → p.p3.toNat < 0x0F →
    decodeInstr p = .decodeFlipLo p ∧
    ∃ t, exec (.decodeFlipLo p) s = .next t ∧ DecodeEffect p (-500) s t ∧ t.ch.aux1 = 0xFE0C#16 ∧
      -500 ≤ t.ch.pit.toInt ∧ t.ch.pit.toInt ≤ -456 ∧
      (p.p3 = 0x0E#8 → t.ch.pit.toInt = -456) ∧ (p.p3.toNat ≤ 0x02 → t.ch.pit.toInt = -500)

/-- R96: DECODE.FLIP_DEAD holds aux1, its bounds 0x0F and 0xF0 included, and the pitch is in [-452, 448]. -/
def Obligations.DecodeFlipDeadResult : Prop :=
  ∀ (p : Payload) (s : State), s.faultMark = .none → p.p7.toNat % 16 ≠ 0 → 0x0F ≤ p.p3.toNat → p.p3.toNat ≤ 0xF0 →
    decodeInstr p = .decodeFlipDead p ∧
    ∃ t, exec (.decodeFlipDead p) s = .next t ∧ DecodeEffect p s.ch.aux1.toInt s t ∧ t.ch.aux1 = s.ch.aux1 ∧
      -452 ≤ t.ch.pit.toInt ∧ t.ch.pit.toInt ≤ 448

/-- R65: the class table: which DECODE a payload is, and that the class decides aux1 and nothing else. -/
def Obligations.PayloadClassesPartition : Prop :=
  ∀ p : Payload,
    (decodeInstr p = .decodeNoflip p ↔ p.p7.toNat % 16 = 0) ∧
    (decodeInstr p = .decodeFlipHi p ↔ p.p7.toNat % 16 ≠ 0 ∧ 0xF1 ≤ p.p3.toNat ∧ p.p3.toNat ≤ 0xFF) ∧
    (decodeInstr p = .decodeFlipLo p ↔ p.p7.toNat % 16 ≠ 0 ∧ p.p3.toNat ≤ 0x0E) ∧
    (decodeInstr p = .decodeFlipDead p ↔ p.p7.toNat % 16 ≠ 0 ∧ 0x0F ≤ p.p3.toNat ∧ p.p3.toNat ≤ 0xF0) ∧
    (∀ s : State, s.faultMark = .none → ∃ (t : State) (a : Int),
      exec (decodeInstr p) s = .next t ∧ DecodeEffect p a s t ∧
      (p.p7.toNat % 16 = 0 → t.ch.aux1 = s.ch.aux1) ∧
      (p.p7.toNat % 16 ≠ 0 → 0xF1 ≤ p.p3.toNat → t.ch.aux1.toInt = 500) ∧
      (p.p7.toNat % 16 ≠ 0 → p.p3.toNat ≤ 0x0E → t.ch.aux1.toInt = -500) ∧
      (p.p7.toNat % 16 ≠ 0 → 0x0F ≤ p.p3.toNat → p.p3.toNat ≤ 0xF0 → t.ch.aux1 = s.ch.aux1))

/-- R84: throttle, with the rule's corner values. -/
def Obligations.ThrottleRule : Prop :=
  ∀ (p : Payload) (s : State), s.faultMark = .none →
    ∃ t, exec (decodeInstr p) s = .next t ∧
      t.ch.thr.toInt = (if 4 * (p.p0.toNat : Int) < 0 then 0 else if 4 * (p.p0.toNat : Int) > 1000 then 1000
        else 4 * (p.p0.toNat : Int)) ∧
      (p.p0 = 0x00#8 → t.ch.thr = 0#16) ∧ (p.p0 = 0x80#8 → t.ch.thr = 0x0200#16) ∧
      (p.p0 = 0xFA#8 → t.ch.thr.toInt = 1000) ∧ (0xFB ≤ p.p0.toNat → t.ch.thr.toInt = 1000)

/-- R85, R86, R87: roll from byte 4, pitch from byte 3, yaw from byte 1, with the rules' corner values. -/
def Obligations.RollPitchYawRules : Prop :=
  ∀ (p : Payload) (s : State), s.faultMark = .none →
    ∃ t, exec (decodeInstr p) s = .next t ∧
      ∀ (b : Byte) (w : ChanWord), ((b, w) = (p.p4, t.ch.rol) ∨ (b, w) = (p.p3, t.ch.pit) ∨ (b, w) = (p.p1, t.ch.yaw)) →
        w.toInt = (if 4 * (b.toNat : Int) - 512 < -500 then -500 else if 4 * (b.toNat : Int) - 512 > 500 then 500
          else 4 * (b.toNat : Int) - 512) ∧
        (b.toNat ≤ 0x03 → w.toInt = -500) ∧ (b = 0x40#8 → w.toInt = -256) ∧ (b = 0x80#8 → w = 0#16) ∧
        (b = 0xC0#8 → w = 0x0100#16) ∧ (b = 0xF5#8 → w = 0x01D4#16) ∧ (b = 0x05#8 → w = 0xFE14#16) ∧
        (0xFD ≤ b.toNat → w.toInt = 500)

/-- R88: the flip event is the low nibble of P[7] being nonzero; bits 7..4 do not affect it; it is stored nowhere but in
aux1: two payloads that differ in the flip nibble alone leave states that differ in aux1, PB and HIST alone. -/
def Obligations.FlipDetection : Prop :=
  (∀ p : Payload, flip p = true ↔ p.p7.toNat % 16 ≠ 0) ∧
  (∀ (p : Payload) (b : Byte) (s : State), s.faultMark = .none →
    ∃ t u, exec (decodeInstr p) s = .next t ∧ exec (decodeInstr { p with p7 := b }) s = .next u ∧
      u = { t with ch := { t.ch with aux1 := u.ch.aux1 }, pb := u.pb, hist := u.hist } ∧
      (b.toNat % 16 = p.p7.toNat % 16 → u.ch = t.ch))

/-- R89: aux1, both comparisons strict and unsigned. -/
def Obligations.Aux1Rule : Prop :=
  ∀ (p : Payload) (s : State), s.faultMark = .none →
    ∃ t, exec (decodeInstr p) s = .next t ∧
      (p.p7.toNat % 16 ≠ 0 → p.p3.toNat > 0xF0 → t.ch.aux1.toInt = 500) ∧
      (p.p7.toNat % 16 ≠ 0 → p.p3.toNat < 0x0F → t.ch.aux1.toInt = -500) ∧
      (p.p7.toNat % 16 = 0 ∨ (0x0F ≤ p.p3.toNat ∧ p.p3.toNat ≤ 0xF0) → t.ch.aux1 = s.ch.aux1)

/-- R90: no DECODE writes aux2, and over every launch aux2 keeps its reset value 0. -/
def Obligations.Aux2NeverWrittenByDecode : Prop :=
  (∀ (p : Payload) (s : State), s.faultMark = .none →
    ∃ t, exec (decodeInstr p) s = .next t ∧ t.ch.aux2 = s.ch.aux2) ∧
  (∀ (xs : List Stimulus) (k : Nat) (t : State), core.run k (launched xs) = .next t → t.ch.aux2 = 0#16)

/-- R66: every payload is legal, and two payloads that differ only in the ignored bits give the same channels and events
but for EV_READ and PB. -/
def Obligations.IgnoredBitsHaveNoEffect : Prop :=
  ∀ (p q : Payload) (s : State), s.faultMark = .none →
    p.p0 = q.p0 → p.p1 = q.p1 → p.p3 = q.p3 → p.p4 = q.p4 → p.p7.extractLsb' 0 4 = q.p7.extractLsb' 0 4 →
    ∃ t es, exec (decodeInstr p) s = .next t ∧ t.pb = some p ∧ t.hist = s.hist ++ .read 9 p :: es ∧
      exec (decodeInstr q) s = .next { t with pb := some q, hist := s.hist ++ .read 9 q :: es }

/-- R100: decoding the same payload twice gives the same channels; the analog channels depend on the payload alone, aux1
on it alone in the two setting classes; aux2 is untouched; the side effects happen again, the commit with the values the
channels hold. -/
def Obligations.DecodeIsIdempotentOnChannels : Prop :=
  ∀ (p : Payload) (s s' : State), s.faultMark = .none → s'.faultMark = .none →
    ∃ t u t', exec (decodeInstr p) s = .next t ∧ exec (decodeInstr p) t = .next u ∧ exec (decodeInstr p) s' = .next t' ∧
      u.ch = t.ch ∧
      t'.ch.thr = t.ch.thr ∧ t'.ch.rol = t.ch.rol ∧ t'.ch.pit = t.ch.pit ∧ t'.ch.yaw = t.ch.yaw ∧
      (classOf p = .flipHi ∨ classOf p = .flipLo → t'.ch.aux1 = t.ch.aux1) ∧
      (classOf p = .noflip ∨ classOf p = .flipDead → t.ch.aux1 = s.ch.aux1) ∧
      t.ch.aux2 = s.ch.aux2 ∧
      u.hist = t.hist ++ [.read 9 p, .flushRx, .clearStatus,
        .commit t.ch.thr.toInt t.ch.rol.toInt t.ch.pit.toInt t.ch.yaw.toInt t.ch.aux1.toInt, .fsClr]

/-- R101: the analog channels after a DECODE are the values its payload gives, whatever the state held before. -/
def Obligations.DecodeOverwritesAnalogChannels : Prop :=
  ∀ (p : Payload) (s : State) (c : Channels), s.faultMark = .none →
    ∃ t u, exec (decodeInstr p) s = .next t ∧ exec (decodeInstr p) { s with ch := c } = .next u ∧
      u.ch.thr = t.ch.thr ∧ u.ch.rol = t.ch.rol ∧ u.ch.pit = t.ch.pit ∧ u.ch.yaw = t.ch.yaw ∧
      t.ch.thr.toInt = throttleValue p.p0 ∧ t.ch.rol.toInt = axisValue p.p4 ∧
      t.ch.pit.toInt = axisValue p.p3 ∧ t.ch.yaw.toInt = axisValue p.p1

/-- R102: pitch and aux1 are both computed in every DECODE, each from byte 3: a flip event does not suppress the pitch update,
the pitch value does not gate the flip, and byte 3 ties the two together in the setting classes. -/
def Obligations.PitchAndSelectorShareByteThree : Prop :=
  ∀ (p : Payload) (s : State), s.faultMark = .none →
    ∃ t, exec (decodeInstr p) s = .next t ∧ t.ch.pit.toInt = axisValue p.p3 ∧
      t.ch.aux1.toInt = (if p.p7.toNat % 16 ≠ 0 ∧ p.p3.toNat > 0xF0 then 500
        else if p.p7.toNat % 16 ≠ 0 ∧ p.p3.toNat < 0x0F then -500 else s.ch.aux1.toInt) ∧
      (decodeInstr p = .decodeFlipHi p → t.ch.aux1.toInt = 500 ∧ 452 ≤ t.ch.pit.toInt ∧ t.ch.pit.toInt ≤ 500) ∧
      (decodeInstr p = .decodeFlipLo p → t.ch.aux1.toInt = -500 ∧ -500 ≤ t.ch.pit.toInt ∧ t.ch.pit.toInt ≤ -456)

/-- R103: every DECODE, whatever the payload, resets the failsafe counter exactly once; no other operation does. -/
def Obligations.EveryDecodeResetsFailsafeOnce : Prop :=
  (∀ (p : Payload) (s : State), s.faultMark = .none →
    ∃ t, exec (decodeInstr p) s = .next t ∧ t.hist.count .fsClr = s.hist.count .fsClr + 1) ∧
  (∀ (i : Instr) (s t : State), isDecode i = false → exec i s = .next t → t.hist.count .fsClr = s.hist.count .fsClr)

/-! ### Arithmetic laws -/

/-- R97: byte 0x80 is the centre of the three axes, 0x40 gives -256, and the unclamped range is -512 to 508. -/
def Obligations.AxisCentringIsAsymmetric : Prop :=
  axisOf 0x80#8 = 0 ∧ axisOf 0x40#8 = -256 ∧ axisRaw 0x00#8 = -512 ∧ axisRaw 0xFF#8 = 508 ∧
  (∀ (p : Payload) (s : State), s.faultMark = .none →
    ∃ t, exec (decodeInstr p) s = .next t ∧
      ∀ (b : Byte) (w : ChanWord), ((b, w) = (p.p4, t.ch.rol) ∨ (b, w) = (p.p3, t.ch.pit) ∨ (b, w) = (p.p1, t.ch.yaw)) →
        (w.toInt = 0 ↔ b = 0x80#8) ∧ (b = 0x40#8 → w.toInt = -256))

/-- R64: the bit-level datapath forms equal the integer forms for every byte, and the clamps are active exactly where the
rule says. -/
def Obligations.DatapathFormsAgree : Prop :=
  (∀ b : Byte,
    axisRawWord b = to16 (axisRaw b) ∧ throttleWord b = to16 (throttleOf b) ∧ axisWord b = to16 (axisOf b) ∧
    (throttleOf b ≠ thrShifted b ↔ 0xFB ≤ b.toNat) ∧ 0 ≤ thrShifted b ∧
    (axisOf b ≠ axisRaw b ↔ b.toNat ≤ 0x02 ∨ 0xFE ≤ b.toNat)) ∧
  (∀ p : Payload,
    flip p = flipBits (flipNib p) ∧ auxHi p = auxHiBits (auxSel p) ∧ auxLo p = auxLoBits (auxSel p))

/-- R98: the widths of every intermediate value; nothing overflows, every stored value fits 16 bits and is a multiple of 4;
the encodings the rule lists. -/
def Obligations.DecodeArithmeticNeverOverflows : Prop :=
  (∀ b : Byte, 0 ≤ thrShifted b ∧ thrShifted b ≤ 1020 ∧ -512 ≤ axisRaw b ∧ axisRaw b ≤ 508) ∧
  (∀ (p : Payload) (old v : Int), (old = -500 ∨ old = 0 ∨ old = 500) →
    (v = throttle p ∨ v = roll p ∨ v = pitch p ∨ v = yaw p ∨ v = aux1Next p old) →
    -500 ≤ v ∧ v ≤ 1000 ∧ (4 : Int) ∣ v ∧ (to16 v).toInt = v) ∧
  (to16 0 = 0x0000#16 ∧ to16 1000 = 0x03E8#16 ∧ to16 500 = 0x01F4#16 ∧ to16 (-500) = 0xFE0C#16 ∧ to16 (-256) = 0xFF00#16)

/-- R99: each analog channel is a monotone function of its byte, rising by exactly 4 where no clamp acts and constant where
one does. -/
def Obligations.AnalogChannelsAreMonotone : Prop :=
  (∀ b c : Byte, b.toNat ≤ c.toNat → throttleOf b ≤ throttleOf c ∧ axisOf b ≤ axisOf c) ∧
  (∀ b c : Byte, c.toNat = b.toNat + 1 → c.toNat ≤ 0xFA → throttleOf c = throttleOf b + 4) ∧
  (∀ b c : Byte, c.toNat = b.toNat + 1 → 0x03 ≤ b.toNat → c.toNat ≤ 0xFD → axisOf c = axisOf b + 4) ∧
  (∀ b : Byte, 0xFA ≤ b.toNat → throttleOf b = 1000) ∧
  (∀ b : Byte, b.toNat ≤ 0x03 → axisOf b = -500) ∧ (∀ b : Byte, 0xFD ≤ b.toNat → axisOf b = 500) ∧
  (∀ (p : Payload) (s : State), s.faultMark = .none →
    ∃ t, exec (decodeInstr p) s = .next t ∧ t.ch.thr.toInt = throttleOf p.p0 ∧ t.ch.rol.toInt = axisOf p.p4 ∧
      t.ch.pit.toInt = axisOf p.p3 ∧ t.ch.yaw.toInt = axisOf p.p1)

/-! ### Control operations and faults -/

/-- R120: RESET, in any phase, for any value of the other inputs: the reset values, EV_RESET and no other event, FAULT not
changed; a DECODE in progress is abandoned; a second RESET adds only an EV_RESET; none from a faulted state. -/
def Obligations.ResetResult : Prop :=
  ∀ (s : State) (b d : Bool),
    (s.faultMark = .none →
      exec (.reset b d) s = .next { s with
        ch := { thr := 0#16, rol := 0#16, pit := 0#16, yaw := 0#16, aux1 := 0#16, aux2 := 0#16 },
        pb := none, hist := s.hist ++ [.reset], phase := .idle,
        flushRx := false, clrStatus := false, fsClr := false } ∧
      (∀ t b' d', exec (.reset b d) s = .next t → exec (.reset b' d') t = .next { t with hist := t.hist ++ [.reset] })) ∧
    (s.faultMark ≠ .none → exec (.reset b d) s = .fault (.halted s.faultMark))

/-- R121: IDLE changes no state and records no event, with `bound` either value, however often it is repeated. -/
def Obligations.IdleChangesNothing : Prop :=
  ∀ (s : State) (b b' : Bool), s.faultMark = .none →
    exec (.idle b) s = .next s ∧ ∀ t, exec (.idle b) s = .next t → exec (.idle b') t = .next s

/-- R122: DECODE_UNBOUND sets FAULT to code 1 and changes nothing else; there is no further step. -/
def Obligations.DecodeUnboundRaisesItsFault : Prop :=
  ∀ s : State, s.faultMark = .none →
    exec .decodeUnbound s = .next { s with faultMark := .decodeUnbound } ∧
    (∀ t, exec .decodeUnbound s = .next t →
      step t = .fault (.halted .decodeUnbound) ∧ ∀ i, exec i t = .fault (.halted .decodeUnbound))

/-- R123: REQ_WHILE_BUSY sets FAULT to code 2 and changes nothing else: the DECODE in progress is not completed; there is no
further step. A clock cycle with `dec_req = 1`, `bound = 1` and `rst = 0` while busy raises it. -/
def Obligations.ReqWhileBusyRaisesItsFault : Prop :=
  (∀ (s : State) (b : Bool), s.faultMark = .none →
    exec (.reqWhileBusy b) s = .next { s with faultMark := .reqWhileBusy } ∧
    (∀ t, exec (.reqWhileBusy b) s = .next t →
      step t = .fault (.halted .reqWhileBusy) ∧ ∀ i, exec i t = .fault (.halted .reqWhileBusy))) ∧
  (∀ (s : State) (t : Trigger) (ack : Bool) (rd : Bus) (n : Nat), s.faultMark = .none → s.busy = true →
    t.getLsbD 2 = false → t.getLsbD 1 = true → t.getLsbD 0 = true →
    cycle t ack rd n s = .next { s with faultMark := .reqWhileBusy })

/-- The model's choice (DEDUCED, log entry 17): with `bound = 0` too, where R122 and R123 both match and R144 does not rank
them, the fault a request raises in a BUSY block is REQ_WHILE_BUSY, in a clock cycle and in a step on a transaction-level
sample (log entry 13). -/
def Obligations.BusyRequestWithBoundLowRaisesReqWhileBusy : Prop :=
  ∀ s : State, s.faultMark = .none → s.busy = true →
    (∀ (ack : Bool) (rd : Bus) (n : Nat), cycle 0b001#3 ack rd n s = .next { s with faultMark := .reqWhileBusy }) ∧
    (sampleTrigger (nextSample s) = 0b001#3 →
      ∃ t, step s = .next t ∧ t.faultMark = .reqWhileBusy ∧
        t.ch = s.ch ∧ t.pb = s.pb ∧ t.hist = s.hist ∧ t.phase = s.phase)

/-- A RESET in the middle of a cycle-level DECODE (R120): the history is a run of whole transactions and, of the abandoned
one, at most its read, flush and status clear; the RESET step adds EV_RESET and no other event, so no EV_COMMIT and no
EV_FS_CLR of the abandoned transaction is ever recorded. -/
def Obligations.ResetAbandonsTheDecodeInProgress : Prop :=
  ∀ s : State, s.faultMark = .none → HistoryOrdered s → (sampleTrigger (nextSample s)).getLsbD 2 = true →
    ∃ whole part : List Event, s.hist = whole ++ part ∧ expectAfter .ready whole = some .ready ∧
      (s.phase = .idle → part = []) ∧
      (∀ e ∈ part, (∃ n p, e = .read n p) ∨ e = .flushRx ∨ e = .clearStatus) ∧
      ∃ t, step s = .next t ∧ t.hist = s.hist ++ [.reset] ∧ t.phase = .idle ∧ t.ch = Channels.zero ∧ t.pb = none

/-- R31: FAULT is NONE at launch; only the two raising operations set it, and a step, at either level, only when its sampled
trigger is a request that is unbound or busy; no step clears it, and a faulted state has no step. -/
def Obligations.FaultMarkIsSticky : Prop :=
  State.reset.faultMark = .none ∧
  (∀ (i : Instr) (s t : State), exec i s = .next t → t.faultMark ≠ s.faultMark →
    (i = .decodeUnbound ∧ t.faultMark = .decodeUnbound) ∨ (∃ b, i = .reqWhileBusy b ∧ t.faultMark = .reqWhileBusy)) ∧
  (∀ s t : State, step s = .next t → t.faultMark ≠ s.faultMark →
    (sampleTrigger (nextSample s)).getLsbD 2 = false ∧ (sampleTrigger (nextSample s)).getLsbD 0 = true ∧
    (((sampleTrigger (nextSample s)).getLsbD 1 = false ∧ t.faultMark = .decodeUnbound) ∨
      (s.busy = true ∧ t.faultMark = .reqWhileBusy))) ∧
  (∀ s : State, s.faultMark ≠ .none →
    step s = .fault (.halted s.faultMark) ∧ ∀ i, exec i s = .fault (.halted s.faultMark))

/-- R142: a step that raises a fault leaves CH, PB, HIST and the phase as they were. -/
def Obligations.FaultsArePrecise : Prop :=
  ∀ s t : State, step s = .next t → t.faultMark ≠ .none →
    t.ch = s.ch ∧ t.pb = s.pb ∧ t.hist = s.hist ∧ t.phase = s.phase

/-! ### State, outputs and launch -/

/-- R33: what every item holds at launch, and after a RESET. -/
def Obligations.ResetStateValues : Prop :=
  State.reset.ch = { thr := 0x0000#16, rol := 0x0000#16, pit := 0x0000#16, yaw := 0x0000#16, aux1 := 0x0000#16, aux2 := 0x0000#16 } ∧
  State.reset.pb = none ∧ State.reset.faultMark = .none ∧ State.reset.hist = [] ∧ State.reset.phase = .idle ∧
  State.reset.rdReq = false ∧ State.reset.flushRx = false ∧ State.reset.clrStatus = false ∧ State.reset.fsClr = false ∧
  (∀ (s t : State) (b d : Bool), exec (.reset b d) s = .next t →
    t.ch = State.reset.ch ∧ t.pb = none ∧ t.faultMark = s.faultMark ∧ t.hist = s.hist ++ [.reset] ∧ t.phase = .idle ∧
    t.rdReq = false ∧ t.flushRx = false ∧ t.clrStatus = false ∧ t.fsClr = false)

/-- R35: the output ports: the levels in every state, and after every step the three pulses show whether the step recorded
their event, so that each lasts one step. When `busy` and `rd_req` fall, how the pulses pair in one state, and that they show
after a transaction too, are the model's choices (log entries 8, 12 and 21). -/
def Obligations.OutputPortsShowTheState : Prop :=
  ∀ s : State,
    (outputsOf s).chThr = s.ch.thr ∧ (outputsOf s).chRol = s.ch.rol ∧ (outputsOf s).chPit = s.ch.pit ∧
    (outputsOf s).chYaw = s.ch.yaw ∧ (outputsOf s).chAux1 = s.ch.aux1 ∧ (outputsOf s).chAux2 = s.ch.aux2 ∧
    (outputsOf s).rdSize.toNat = 9 ∧ ((outputsOf s).busy = true ↔ s.phase ≠ .idle) ∧
    ((outputsOf s).rdReq = true ↔ s.phase = .busy .read) ∧ ((outputsOf s).rdReq = true → (outputsOf s).busy = true) ∧
    (outputsOf s).flushRx = s.flushRx ∧ (outputsOf s).clrStatus = s.clrStatus ∧ (outputsOf s).fsClr = s.fsClr ∧
    (∀ t, step s = .next t →
      ∃ es, t.hist = s.hist ++ es ∧ (outputsOf t).flushRx = es.contains .flushRx ∧
        (outputsOf t).clrStatus = es.contains .clearStatus ∧ (outputsOf t).fsClr = es.contains .fsClr)

/-- R22: which operations write which channels; the consumer reads every one of them in every state, and reading is no
operation: it is a function of the state. A DECODE writes CH[0..4] together, with the values of the one EV_COMMIT it adds to
the history. -/
def Obligations.OnlyDecodeAndResetWriteChannels : Prop :=
  (∀ s : State, consumerRead .thr s = s.ch.thr ∧ consumerRead .rol s = s.ch.rol ∧ consumerRead .pit s = s.ch.pit ∧
    consumerRead .yaw s = s.ch.yaw ∧ consumerRead .aux1 s = s.ch.aux1 ∧ consumerRead .aux2 s = s.ch.aux2) ∧
  ∀ (i : Instr) (s t : State), exec i s = .next t →
    (isDecode i = false → (∀ b d, i ≠ .reset b d) → t.ch = s.ch) ∧
    ((∀ b d, i ≠ .reset b d) → t.ch.aux2 = s.ch.aux2) ∧
    (∀ b d, i = .reset b d → t.ch = Channels.zero) ∧
    (isDecode i = true → ∃ (p : Payload) (v0 v1 v2 v3 v4 : Int),
      t.ch = { thr := to16 v0, rol := to16 v1, pit := to16 v2, yaw := to16 v3, aux1 := to16 v4, aux2 := s.ch.aux2 } ∧
      t.hist = s.hist ++ [.read 9 p, .flushRx, .clearStatus, .commit v0 v1 v2 v3 v4, .fsClr])

/-- R7: a build with nine-byte payloads launches in the reset state, any other is refused. -/
def Obligations.OnlyNineBytePayloadBuildsLaunch : Prop :=
  launch 9 = .next State.reset ∧ ∀ n, n ≠ 9 → launch n = .refused (.payloadSize n)

/-- The frame of the four DECODE operations: aux2, FAULT, the phase and the host's script are unchanged, and the history is
only added to. -/
def Obligations.DecodeLeavesTheRestUnchanged : Prop :=
  ∀ (i : Instr) (s t : State), isDecode i = true → exec i s = .next t →
    t.ch.aux2 = s.ch.aux2 ∧ t.faultMark = s.faultMark ∧ t.phase = s.phase ∧ t.script = s.script ∧ t.draws = s.draws ∧
    s.hist <+: t.hist

/-- The frame of the control operations: RESET leaves FAULT and the host's script; the others leave everything, but that
the two raising operations set FAULT. -/
def Obligations.ControlLeavesTheRestUnchanged : Prop :=
  ∀ (i : Instr) (s t : State), isDecode i = false → exec i s = .next t →
    t.script = s.script ∧ t.draws = s.draws ∧ s.hist <+: t.hist ∧
    ((∃ b d, i = .reset b d) → t.faultMark = s.faultMark) ∧
    ((∀ b d, i ≠ .reset b d) → { t with faultMark := s.faultMark } = s)

/-! ### Whole-machine rules -/

/-- Every step accounts for what it does by the events it records: the channels and PB change by those events alone, the
pulses show them, at most one frame is committed, and a raised fault records none. -/
def Obligations.StepEffectsAreItsEvents : Prop :=
  ∀ s t : State, step s = .next t →
    ∃ es, t.hist = s.hist ++ es ∧ t.ch = replay s.ch es ∧ t.pb = lastRead s.pb es ∧ PulsesShow t es ∧
      es.countP (fun e => match e with | .commit _ _ _ _ _ => true | _ => false) ≤ 1 ∧
      (t.faultMark ≠ .none → es = [])

/-- The reset state meets every invariant stated below, and is final. -/
def Obligations.ResetMeetsTheInvariants : Prop :=
  Final State.reset ∧ ChannelsLegal State.reset.ch ∧ HistoryOrdered State.reset ∧ HistoryAccounts State.reset ∧
  PayloadHeld State.reset

/-- Every step keeps the value invariants of R23, from every state that has them. -/
def Obligations.StepKeepsChannelsLegal : Prop :=
  ∀ s t : State, ChannelsLegal s.ch → step s = .next t → ChannelsLegal t.ch

/-- R23: in every state reachable from reset, whatever the host supplies and the transport answers, the registers hold the
values the rule lists. -/
def Obligations.ReachableChannelsLegal : Prop :=
  ∀ (xs : List Stimulus) (k : Nat) (t : State), core.run k (launched xs) = .next t → ChannelsLegal t.ch

/-- Every step keeps the history in the order of R49, at the point the phase says, EV_RESET coming nowhere between EV_COMMIT
and EV_FS_CLR (R120; log entry 7). -/
def Obligations.StepKeepsEventOrder : Prop :=
  ∀ s t : State, HistoryOrdered s → step s = .next t → HistoryOrdered t

/-- Every step keeps CH and PB what the history accounts for. -/
def Obligations.StepKeepsHistoryAccount : Prop :=
  ∀ s t : State, HistoryAccounts s → step s = .next t → HistoryAccounts t

/-- With FAULT = NONE every step completes, from every state in which a DECODE past its read holds its payload, and keeps
that. -/
def Obligations.UnfaultedStepCompletes : Prop :=
  ∀ s : State, s.faultMark = .none → PayloadHeld s → ∃ t, step s = .next t ∧ PayloadHeld t

/-! ### The cycle-level realisation -/

/-- A cycle-level DECODE refines the transaction: accepted in an IDLE block and followed by quiet cycles until the block is
IDLE again, however its stages fall on the cycles, it leaves CH, PB, FAULT and HIST as the atomic DECODE of the payload on
`rd_data` in the first `rd_ack` cycle after the accepting one does. -/
def Obligations.CycleDecodeRefinesTransaction : Prop :=
  ∀ (s t : State) (x : Stimulus) (xs rest : List Stimulus),
    s.faultMark = .none → s.phase = .idle → s.script = x :: (xs ++ rest) →
    Accepts x → (∀ y ∈ xs, Quiet y) →
    core.run (xs.length + 1) s = .next t → t.phase = .idle →
    ∃ p u, firstAnswer xs = some p ∧ exec (decodeInstr p) s = .next u ∧ tuple t = tuple u

/-- The shortest DECODE (DECODE_LATENCY 1 from its accepting edge: answered in the one cycle in which `rd_req` is up, with a
pace of at least the three stages after the read, log entry 7) is the transaction, in every field; what the inputs were in the
accepting cycle beside the trigger does not matter. -/
def Obligations.ShortestDecodeIsTheTransaction : Prop :=
  ∀ (s : State) (t : Trigger) (ack : Bool) (rd rd' : Bus) (n n' : Nat),
    s.faultMark = .none → s.phase = .idle → t.getLsbD 2 = false → t.getLsbD 0 = false → 3 ≤ n →
    ∃ u, cycle 0b011#3 ack rd' n' (lowerPulses s) = .next u ∧ (outputsOf u).rdReq = true ∧ (outputsOf u).busy = true ∧
      cycle t true rd n (lowerPulses u) = exec (decodeInstr (payloadOfBus rd)) (lowerPulses s)

/-- The read handshake at cycle level (R81, R165). A DECODE's accepting cycle raises `rd_req` with `rd_size = 9` and samples
nothing, whatever `rd_ack` is (DEDUCED, log entry 7); while the transport does not answer, a quiet cycle changes nothing, so
`rd_req` is held; a quiet cycle with `rd_ack = 1` samples `rd_data`, records EV_READ, fills PB and
ends `rd_req` (log entries 8 and 21). -/
def Obligations.ReadHandshake : Prop :=
  (∀ (s : State) (ack : Bool) (rd : Bus) (n : Nat), s.faultMark = .none → s.phase = .idle →
    ∃ u, cycle 0b011#3 ack rd n s = .next u ∧ (outputsOf u).rdReq = true ∧ (outputsOf u).rdSize.toNat = 9 ∧
      u = { s with phase := .busy .read }) ∧
  (∀ (s : State) (t : Trigger) (rd : Bus) (n : Nat), s.faultMark = .none → s.phase = .busy .read →
    t.getLsbD 2 = false → t.getLsbD 0 = false →
    cycle t false rd n s = .next s ∧ (outputsOf s).rdReq = true ∧
    ∃ u es, cycle t true rd n s = .next u ∧ u.pb = some (payloadOfBus rd) ∧
      u.hist = s.hist ++ .read 9 (payloadOfBus rd) :: es ∧ (outputsOf u).rdReq = false ∧
      (n = 0 → es = [] ∧ (outputsOf u).busy = true))

/-- R165: a clock cycle reads `rd_data` only if `rd_ack = 1` and the block waits for its answer. -/
def Obligations.BusIsReadOnlyInTheAnswer : Prop :=
  ∀ (s : State) (t : Trigger) (rd rd' : Bus) (n : Nat),
    cycle t false rd n s = cycle t false rd' n s ∧
    (s.phase ≠ .busy .read → ∀ ack ack' : Bool, cycle t ack rd n s = cycle t ack' rd' n s)

/-- A transport that never answers leaves the block BUSY for ever: nothing is recorded or written, and no such state is
final. -/
def Obligations.UnansweredReadStaysBusy : Prop :=
  ∀ (s : State) (xs rest : List Stimulus),
    s.faultMark = .none → s.phase = .busy .read → s.script = xs ++ rest → (∀ y ∈ xs, QuietUnanswered y) →
    ∃ t, core.run xs.length s = .next t ∧ t.phase = .busy .read ∧ t.rdReq = true ∧ tuple t = tuple s ∧ ¬ Final t
end

