-- ==== Sys2Proof/Laws/Fields.lean ====
section
/-!
SUPPORT. The field rules as plain arithmetic: the channel maps as minima and maxima, their ranges, the 16-bit encoding of
every value in range, the payload conditions as comparisons of byte values.
-/

namespace Sys2Proof.Machine

open Sys2Proof.Safety

/-- A byte's value is below 256. -/
theorem byte_lt (b : Byte) : b.toNat < 256 := b.isLt

theorem thrShifted_eq (b : Byte) : thrShifted b = 4 * (b.toNat : Int) := by
  simp [thrShifted, shl, zext, Config.shift]; omega

theorem axisRaw_eq (b : Byte) : axisRaw b = 4 * (b.toNat : Int) - 512 := by
  simp [axisRaw, shl, zext, Config.shift, Config.bias]; omega

/-- The throttle map is the minimum of R84 (its lower clamp never acts). -/
theorem throttleOf_eq (b : Byte) : throttleOf b = throttleValue b := by
  unfold throttleOf clamp throttleValue Config.thrMin Config.thrMax
  rw [thrShifted_eq]; split <;> (try split) <;> omega

/-- The axis map is the clamp of R85 to R87. -/
theorem axisOf_eq (b : Byte) : axisOf b = axisValue b := by
  unfold axisOf clamp axisValue Config.axMin Config.axMax
  rw [axisRaw_eq]; split <;> (try split) <;> omega

theorem throttleValue_range (b : Byte) : 0 ≤ throttleValue b ∧ throttleValue b ≤ 1000 ∧ (4 : Int) ∣ throttleValue b := by
  unfold throttleValue; omega

theorem axisValue_range (b : Byte) : -500 ≤ axisValue b ∧ axisValue b ≤ 500 ∧ (4 : Int) ∣ axisValue b := by
  unfold axisValue; omega

/-- The 16-bit encoding keeps every value in range (R10). -/
theorem to16_toInt {v : Int} (h1 : -32768 ≤ v) (h2 : v ≤ 32767) : (to16 v).toInt = v := by
  rw [to16, BitVec.toInt_ofInt, Int.bmod_eq_of_le (by omega) (by omega)]

/-- Committing the value a register holds leaves the register as it is (R89, the hold). -/
@[simp] theorem to16_signed (w : ChanWord) : to16 (signed w) = w := BitVec.ofInt_toInt

/-- The value a register holds is in the range of its 16 bits. -/
theorem signed_range (w : ChanWord) : -32768 ≤ signed w ∧ signed w ≤ 32767 := by
  have h1 := BitVec.toInt_lt (x := w); have h2 := BitVec.le_toInt (x := w)
  simp only [signed]; omega

theorem to16_throttle_toInt (p : Payload) : (to16 (throttle p)).toInt = throttleValue p.p0 := by
  have h := throttleValue_range p.p0
  rw [throttle, throttleOf_eq, to16_toInt] <;> simp only [thrRaw] <;> omega

theorem to16_axis_toInt (b : Byte) : (to16 (axisOf b)).toInt = axisValue b := by
  have h := axisValue_range b
  rw [axisOf_eq, to16_toInt] <;> omega

/-- The flip event is the low nibble of P[7] being nonzero (R88). -/
theorem flip_iff (p : Payload) : flip p = true ↔ p.p7.toNat % 16 ≠ 0 := by
  simp [flip, flipNib, ← BitVec.toNat_inj]

theorem auxHi_iff (p : Payload) : auxHi p = true ↔ p.p3.toNat > 0xF0 :=
  decide_eq_true_iff

theorem auxLo_iff (p : Payload) : auxLo p = true ↔ p.p3.toNat < 0x0F :=
  decide_eq_true_iff

/-- The value committed to aux1, as R89 writes it. -/
theorem aux1Next_eq (p : Payload) (old : Int) :
    aux1Next p old =
      if p.p7.toNat % 16 ≠ 0 ∧ p.p3.toNat > 0xF0 then 500
      else if p.p7.toNat % 16 ≠ 0 ∧ p.p3.toNat < 0x0F then -500 else old := by
  simp only [aux1Next, Bool.and_eq_true, flip_iff, auxHi_iff, auxLo_iff, Config.auxHiVal, Config.auxLoVal]

/-- The class of a payload, by cases on what its bytes are (R65). -/
theorem classOf_cases (p : Payload) :
    (classOf p = .noflip ∧ p.p7.toNat % 16 = 0) ∨
    (classOf p = .flipHi ∧ p.p7.toNat % 16 ≠ 0 ∧ p.p3.toNat > 0xF0) ∨
    (classOf p = .flipLo ∧ p.p7.toNat % 16 ≠ 0 ∧ p.p3.toNat < 0x0F) ∨
    (classOf p = .flipDead ∧ p.p7.toNat % 16 ≠ 0 ∧ 0x0F ≤ p.p3.toNat ∧ p.p3.toNat ≤ 0xF0) := by
  have hf := flip_iff p; have hh := auxHi_iff p; have hl := auxLo_iff p
  unfold classOf
  cases hF : flip p <;> cases hH : auxHi p <;> cases hL : auxLo p <;> simp [hF, hH, hL] at hf hh hl ⊢ <;> omega

/-- The payload of a bus word is the payload put on it (R42, R61). -/
@[simp] theorem payloadOfBus_busOfPayload (p : Payload) : payloadOfBus (busOfPayload p) = p := by
  cases p
  simp only [payloadOfBus, busOfPayload, Payload.mk.injEq]
  refine ⟨?_, ?_, ?_, ?_, ?_, ?_, ?_, ?_, ?_⟩ <;>
    (apply BitVec.eq_of_getLsbD_eq; intro i hi
     simp only [BitVec.getLsbD_extractLsb', BitVec.getLsbD_append]
     interval_cases i <;> simp)

/-- The bus word of a payload is the bus word it was read from. -/
@[simp] theorem busOfPayload_payloadOfBus (w : Bus) : busOfPayload (payloadOfBus w) = w := by
  apply BitVec.eq_of_getLsbD_eq; intro i hi
  simp only [payloadOfBus, busOfPayload, BitVec.getLsbD_extractLsb', BitVec.getLsbD_append]
  interval_cases i <;> simp

end Sys2Proof.Machine
end

