-- ==== Sys2Proof/Laws/State.lean ====
section
/-!
SUPPORT. One lemma per field per state update, each true by definition: later proofs cite these and never unfold an update.
-/

namespace Sys2Proof.Machine

/-! `record` -/

@[simp] theorem record_ch (e : Event) (s : State) : (record e s).ch = s.ch := rfl
@[simp] theorem record_pb (e : Event) (s : State) : (record e s).pb = s.pb := rfl
@[simp] theorem record_faultMark (e : Event) (s : State) : (record e s).faultMark = s.faultMark := rfl
@[simp] theorem record_hist (e : Event) (s : State) : (record e s).hist = s.hist ++ [e] := rfl
@[simp] theorem record_phase (e : Event) (s : State) : (record e s).phase = s.phase := rfl
@[simp] theorem record_flushRx (e : Event) (s : State) : (record e s).flushRx = s.flushRx := rfl
@[simp] theorem record_clrStatus (e : Event) (s : State) : (record e s).clrStatus = s.clrStatus := rfl
@[simp] theorem record_fsClr (e : Event) (s : State) : (record e s).fsClr = s.fsClr := rfl
@[simp] theorem record_script (e : Event) (s : State) : (record e s).script = s.script := rfl
@[simp] theorem record_draws (e : Event) (s : State) : (record e s).draws = s.draws := rfl

/-! `raiseFault` -/

@[simp] theorem raiseFault_ch (c : FaultCode) (s : State) : (raiseFault c s).ch = s.ch := rfl
@[simp] theorem raiseFault_pb (c : FaultCode) (s : State) : (raiseFault c s).pb = s.pb := rfl
@[simp] theorem raiseFault_faultMark (c : FaultCode) (s : State) : (raiseFault c s).faultMark = c := rfl
@[simp] theorem raiseFault_hist (c : FaultCode) (s : State) : (raiseFault c s).hist = s.hist := rfl
@[simp] theorem raiseFault_phase (c : FaultCode) (s : State) : (raiseFault c s).phase = s.phase := rfl
@[simp] theorem raiseFault_flushRx (c : FaultCode) (s : State) : (raiseFault c s).flushRx = s.flushRx := rfl
@[simp] theorem raiseFault_clrStatus (c : FaultCode) (s : State) : (raiseFault c s).clrStatus = s.clrStatus := rfl
@[simp] theorem raiseFault_fsClr (c : FaultCode) (s : State) : (raiseFault c s).fsClr = s.fsClr := rfl
@[simp] theorem raiseFault_script (c : FaultCode) (s : State) : (raiseFault c s).script = s.script := rfl
@[simp] theorem raiseFault_draws (c : FaultCode) (s : State) : (raiseFault c s).draws = s.draws := rfl

/-! `readStep` -/

@[simp] theorem readStep_ch (p : Payload) (s : State) : (readStep p s).ch = s.ch := rfl
@[simp] theorem readStep_pb (p : Payload) (s : State) : (readStep p s).pb = some p := rfl
@[simp] theorem readStep_faultMark (p : Payload) (s : State) : (readStep p s).faultMark = s.faultMark := rfl
@[simp] theorem readStep_hist (p : Payload) (s : State) : (readStep p s).hist = s.hist ++ [.read 9 p] := rfl
@[simp] theorem readStep_phase (p : Payload) (s : State) : (readStep p s).phase = s.phase := rfl
@[simp] theorem readStep_flushRx (p : Payload) (s : State) : (readStep p s).flushRx = s.flushRx := rfl
@[simp] theorem readStep_clrStatus (p : Payload) (s : State) : (readStep p s).clrStatus = s.clrStatus := rfl
@[simp] theorem readStep_fsClr (p : Payload) (s : State) : (readStep p s).fsClr = s.fsClr := rfl
@[simp] theorem readStep_script (p : Payload) (s : State) : (readStep p s).script = s.script := rfl
@[simp] theorem readStep_draws (p : Payload) (s : State) : (readStep p s).draws = s.draws := rfl

/-! `flushStep` -/

@[simp] theorem flushStep_ch (s : State) : (flushStep s).ch = s.ch := rfl
@[simp] theorem flushStep_pb (s : State) : (flushStep s).pb = s.pb := rfl
@[simp] theorem flushStep_faultMark (s : State) : (flushStep s).faultMark = s.faultMark := rfl
@[simp] theorem flushStep_hist (s : State) : (flushStep s).hist = s.hist ++ [.flushRx] := rfl
@[simp] theorem flushStep_phase (s : State) : (flushStep s).phase = s.phase := rfl
@[simp] theorem flushStep_flushRx (s : State) : (flushStep s).flushRx = true := rfl
@[simp] theorem flushStep_clrStatus (s : State) : (flushStep s).clrStatus = s.clrStatus := rfl
@[simp] theorem flushStep_fsClr (s : State) : (flushStep s).fsClr = s.fsClr := rfl
@[simp] theorem flushStep_script (s : State) : (flushStep s).script = s.script := rfl
@[simp] theorem flushStep_draws (s : State) : (flushStep s).draws = s.draws := rfl

/-! `clearStep` -/

@[simp] theorem clearStep_ch (s : State) : (clearStep s).ch = s.ch := rfl
@[simp] theorem clearStep_pb (s : State) : (clearStep s).pb = s.pb := rfl
@[simp] theorem clearStep_faultMark (s : State) : (clearStep s).faultMark = s.faultMark := rfl
@[simp] theorem clearStep_hist (s : State) : (clearStep s).hist = s.hist ++ [.clearStatus] := rfl
@[simp] theorem clearStep_phase (s : State) : (clearStep s).phase = s.phase := rfl
@[simp] theorem clearStep_flushRx (s : State) : (clearStep s).flushRx = s.flushRx := rfl
@[simp] theorem clearStep_clrStatus (s : State) : (clearStep s).clrStatus = true := rfl
@[simp] theorem clearStep_fsClr (s : State) : (clearStep s).fsClr = s.fsClr := rfl
@[simp] theorem clearStep_script (s : State) : (clearStep s).script = s.script := rfl
@[simp] theorem clearStep_draws (s : State) : (clearStep s).draws = s.draws := rfl

/-! `commit` -/

@[simp] theorem commit_ch (t r p y a : Int) (s : State) : (commit t r p y a s).ch = s.ch.committed t r p y a := rfl
@[simp] theorem commit_pb (t r p y a : Int) (s : State) : (commit t r p y a s).pb = s.pb := rfl
@[simp] theorem commit_faultMark (t r p y a : Int) (s : State) : (commit t r p y a s).faultMark = s.faultMark := rfl
@[simp] theorem commit_hist (t r p y a : Int) (s : State) : (commit t r p y a s).hist = s.hist ++ [.commit t r p y a] := rfl
@[simp] theorem commit_phase (t r p y a : Int) (s : State) : (commit t r p y a s).phase = s.phase := rfl
@[simp] theorem commit_flushRx (t r p y a : Int) (s : State) : (commit t r p y a s).flushRx = s.flushRx := rfl
@[simp] theorem commit_clrStatus (t r p y a : Int) (s : State) : (commit t r p y a s).clrStatus = s.clrStatus := rfl
@[simp] theorem commit_fsClr (t r p y a : Int) (s : State) : (commit t r p y a s).fsClr = s.fsClr := rfl
@[simp] theorem commit_script (t r p y a : Int) (s : State) : (commit t r p y a s).script = s.script := rfl
@[simp] theorem commit_draws (t r p y a : Int) (s : State) : (commit t r p y a s).draws = s.draws := rfl

/-! `failsafeReset` -/

@[simp] theorem failsafeReset_ch (s : State) : (failsafeReset s).ch = s.ch := rfl
@[simp] theorem failsafeReset_pb (s : State) : (failsafeReset s).pb = s.pb := rfl
@[simp] theorem failsafeReset_faultMark (s : State) : (failsafeReset s).faultMark = s.faultMark := rfl
@[simp] theorem failsafeReset_hist (s : State) : (failsafeReset s).hist = s.hist ++ [.fsClr] := rfl
@[simp] theorem failsafeReset_phase (s : State) : (failsafeReset s).phase = s.phase := rfl
@[simp] theorem failsafeReset_flushRx (s : State) : (failsafeReset s).flushRx = s.flushRx := rfl
@[simp] theorem failsafeReset_clrStatus (s : State) : (failsafeReset s).clrStatus = s.clrStatus := rfl
@[simp] theorem failsafeReset_fsClr (s : State) : (failsafeReset s).fsClr = true := rfl
@[simp] theorem failsafeReset_script (s : State) : (failsafeReset s).script = s.script := rfl
@[simp] theorem failsafeReset_draws (s : State) : (failsafeReset s).draws = s.draws := rfl

/-! `resetBlock` -/

@[simp] theorem resetBlock_ch (s : State) : (resetBlock s).ch = Channels.zero := rfl
@[simp] theorem resetBlock_pb (s : State) : (resetBlock s).pb = none := rfl
@[simp] theorem resetBlock_faultMark (s : State) : (resetBlock s).faultMark = s.faultMark := rfl
@[simp] theorem resetBlock_hist (s : State) : (resetBlock s).hist = s.hist ++ [.reset] := rfl
@[simp] theorem resetBlock_phase (s : State) : (resetBlock s).phase = .idle := rfl
@[simp] theorem resetBlock_flushRx (s : State) : (resetBlock s).flushRx = false := rfl
@[simp] theorem resetBlock_clrStatus (s : State) : (resetBlock s).clrStatus = false := rfl
@[simp] theorem resetBlock_fsClr (s : State) : (resetBlock s).fsClr = false := rfl
@[simp] theorem resetBlock_script (s : State) : (resetBlock s).script = s.script := rfl
@[simp] theorem resetBlock_draws (s : State) : (resetBlock s).draws = s.draws := rfl

/-! `lowerPulses` -/

@[simp] theorem lowerPulses_ch (s : State) : (lowerPulses s).ch = s.ch := rfl
@[simp] theorem lowerPulses_pb (s : State) : (lowerPulses s).pb = s.pb := rfl
@[simp] theorem lowerPulses_faultMark (s : State) : (lowerPulses s).faultMark = s.faultMark := rfl
@[simp] theorem lowerPulses_hist (s : State) : (lowerPulses s).hist = s.hist := rfl
@[simp] theorem lowerPulses_phase (s : State) : (lowerPulses s).phase = s.phase := rfl
@[simp] theorem lowerPulses_flushRx (s : State) : (lowerPulses s).flushRx = false := rfl
@[simp] theorem lowerPulses_clrStatus (s : State) : (lowerPulses s).clrStatus = false := rfl
@[simp] theorem lowerPulses_fsClr (s : State) : (lowerPulses s).fsClr = false := rfl
@[simp] theorem lowerPulses_script (s : State) : (lowerPulses s).script = s.script := rfl
@[simp] theorem lowerPulses_draws (s : State) : (lowerPulses s).draws = s.draws := rfl

/-! `setPhase` -/

@[simp] theorem setPhase_ch (ph : Phase) (s : State) : (setPhase ph s).ch = s.ch := rfl
@[simp] theorem setPhase_pb (ph : Phase) (s : State) : (setPhase ph s).pb = s.pb := rfl
@[simp] theorem setPhase_faultMark (ph : Phase) (s : State) : (setPhase ph s).faultMark = s.faultMark := rfl
@[simp] theorem setPhase_hist (ph : Phase) (s : State) : (setPhase ph s).hist = s.hist := rfl
@[simp] theorem setPhase_phase (ph : Phase) (s : State) : (setPhase ph s).phase = ph := rfl
@[simp] theorem setPhase_flushRx (ph : Phase) (s : State) : (setPhase ph s).flushRx = s.flushRx := rfl
@[simp] theorem setPhase_clrStatus (ph : Phase) (s : State) : (setPhase ph s).clrStatus = s.clrStatus := rfl
@[simp] theorem setPhase_fsClr (ph : Phase) (s : State) : (setPhase ph s).fsClr = s.fsClr := rfl
@[simp] theorem setPhase_script (ph : Phase) (s : State) : (setPhase ph s).script = s.script := rfl
@[simp] theorem setPhase_draws (ph : Phase) (s : State) : (setPhase ph s).draws = s.draws := rfl

/-! `commitPayload`: as `commit`, with the payload's values -/

theorem commitPayload_eq (p : Payload) (a : Int) (s : State) :
    commitPayload p a s = commit (throttle p) (roll p) (pitch p) (yaw p) a s := rfl

/-! `Channels.committed` -/

@[simp] theorem committed_thr (c : Channels) (t r p y a : Int) : (c.committed t r p y a).thr = to16 t := rfl
@[simp] theorem committed_rol (c : Channels) (t r p y a : Int) : (c.committed t r p y a).rol = to16 r := rfl
@[simp] theorem committed_pit (c : Channels) (t r p y a : Int) : (c.committed t r p y a).pit = to16 p := rfl
@[simp] theorem committed_yaw (c : Channels) (t r p y a : Int) : (c.committed t r p y a).yaw = to16 y := rfl
@[simp] theorem committed_aux1 (c : Channels) (t r p y a : Int) : (c.committed t r p y a).aux1 = to16 a := rfl
@[simp] theorem committed_aux2 (c : Channels) (t r p y a : Int) : (c.committed t r p y a).aux2 = c.aux2 := rfl

/-! `decodeWith`: the whole transaction at once -/

/-- The five events of one DECODE, in order (R49). -/
def frameEvents (p : Payload) (a : Int) : List Event :=
  [.read 9 p, .flushRx, .clearStatus, .commit (throttle p) (roll p) (pitch p) (yaw p) a, .fsClr]

@[simp] theorem decodeWith_ch (p : Payload) (a : Int) (s : State) :
    (decodeWith p a s).ch = s.ch.committed (throttle p) (roll p) (pitch p) (yaw p) a := rfl
@[simp] theorem decodeWith_pb (p : Payload) (a : Int) (s : State) : (decodeWith p a s).pb = some p := rfl
@[simp] theorem decodeWith_hist (p : Payload) (a : Int) (s : State) :
    (decodeWith p a s).hist = s.hist ++ frameEvents p a := by
  simp [decodeWith, commitPayload_eq, frameEvents]
@[simp] theorem decodeWith_faultMark (p : Payload) (a : Int) (s : State) : (decodeWith p a s).faultMark = s.faultMark := rfl
@[simp] theorem decodeWith_phase (p : Payload) (a : Int) (s : State) : (decodeWith p a s).phase = s.phase := rfl
@[simp] theorem decodeWith_script (p : Payload) (a : Int) (s : State) : (decodeWith p a s).script = s.script := rfl
@[simp] theorem decodeWith_draws (p : Payload) (a : Int) (s : State) : (decodeWith p a s).draws = s.draws := rfl
@[simp] theorem decodeWith_flushRx (p : Payload) (a : Int) (s : State) : (decodeWith p a s).flushRx = true := rfl
@[simp] theorem decodeWith_clrStatus (p : Payload) (a : Int) (s : State) : (decodeWith p a s).clrStatus = true := rfl
@[simp] theorem decodeWith_fsClr (p : Payload) (a : Int) (s : State) : (decodeWith p a s).fsClr = true := rfl

/-! `takeSample` and `nextSample` -/

@[simp] theorem takeSample_ch (s : State) : (takeSample s).ch = s.ch := by unfold takeSample; split <;> rfl
@[simp] theorem takeSample_pb (s : State) : (takeSample s).pb = s.pb := by unfold takeSample; split <;> rfl
@[simp] theorem takeSample_faultMark (s : State) : (takeSample s).faultMark = s.faultMark := by unfold takeSample; split <;> rfl
@[simp] theorem takeSample_hist (s : State) : (takeSample s).hist = s.hist := by unfold takeSample; split <;> rfl
@[simp] theorem takeSample_phase (s : State) : (takeSample s).phase = s.phase := by unfold takeSample; split <;> rfl
@[simp] theorem takeSample_flushRx (s : State) : (takeSample s).flushRx = s.flushRx := by unfold takeSample; split <;> rfl
@[simp] theorem takeSample_clrStatus (s : State) : (takeSample s).clrStatus = s.clrStatus := by unfold takeSample; split <;> rfl
@[simp] theorem takeSample_fsClr (s : State) : (takeSample s).fsClr = s.fsClr := by unfold takeSample; split <;> rfl

theorem nextSample_cons {s : State} {x : Stimulus} {xs : List Stimulus} (h : s.script = x :: xs) : nextSample s = x := by
  simp [nextSample, h]

theorem takeSample_cons {s : State} {x : Stimulus} {xs : List Stimulus} (h : s.script = x :: xs) :
    takeSample s = { s with script := xs } := by
  simp [takeSample, h]

theorem nextSample_nil {s : State} (h : s.script = []) : nextSample s = Config.hostStimulus s.draws := by
  simp [nextSample, h]

theorem takeSample_nil {s : State} (h : s.script = []) : takeSample s = { s with draws := s.draws + 1 } := by
  simp [takeSample, h]

/-! `State.busy`, `State.rdReq` -/

@[simp] theorem busy_eq_true (s : State) : s.busy = true ↔ s.phase ≠ .idle := by simp [State.busy]
@[simp] theorem busy_eq_false (s : State) : s.busy = false ↔ s.phase = .idle := by simp [State.busy]
@[simp] theorem rdReq_eq_true (s : State) : s.rdReq = true ↔ s.phase = .busy .read := by simp [State.rdReq]

end Sys2Proof.Machine
end

