-- ==== Sys2Proof/Laws/History.lean ====
section
/-!
SUPPORT. The history's three readings (the order of R49, the channels and the payload buffer it accounts for) over an
appended list of events.
-/

namespace Sys2Proof.Safety

open Sys2Proof Sys2Proof.Machine

theorem expectAfter_append (q : Expect) (es fs : List Event) :
    expectAfter q (es ++ fs) = (expectAfter q es).bind (fun q' => expectAfter q' fs) := by
  induction es generalizing q with
  | nil => rfl
  | cons e es ih =>
    simp only [List.cons_append, expectAfter]
    cases expectNext q e with
    | none => rfl
    | some q' => exact ih q'

theorem replay_append (c : Channels) (es fs : List Event) : replay c (es ++ fs) = replay (replay c es) fs := by
  induction es generalizing c with
  | nil => rfl
  | cons e es ih => cases e <;> simp only [List.cons_append, replay, ih]

theorem lastRead_append (o : Option Payload) (es fs : List Event) :
    lastRead o (es ++ fs) = lastRead (lastRead o es) fs := by
  induction es generalizing o with
  | nil => rfl
  | cons e es ih => cases e <;> simp only [List.cons_append, lastRead, ih]

end Sys2Proof.Safety
end

