-- ==== Sys2Proof/Laws/PerInstr.lean ====
section
/-!
SUPPORT. Statements about every operation as syntax, one lemma per constructor. Family TableMatch: the trigger an operation
encodes to is one its row of spec/opcode_table.json matches (`T & mask == match`).
-/

namespace Sys2Proof.Laws.TableMatch

/-- The `mask` column of an operation's row. -/
def mask : Instr → Trigger
  | .reset _ _ => 0b100#3
  | .idle _ => 0b101#3
  | .decodeNoflip _ => 0b111#3
  | .decodeFlipHi _ => 0b111#3
  | .decodeFlipLo _ => 0b111#3
  | .decodeFlipDead _ => 0b111#3
  | .decodeUnbound => 0b111#3
  | .reqWhileBusy _ => 0b101#3

/-- The `match` column of an operation's row. -/
def pattern : Instr → Trigger
  | .reset _ _ => 0b100#3
  | .idle _ => 0b000#3
  | .decodeNoflip _ => 0b011#3
  | .decodeFlipHi _ => 0b011#3
  | .decodeFlipLo _ => 0b011#3
  | .decodeFlipDead _ => 0b011#3
  | .decodeUnbound => 0b001#3
  | .reqWhileBusy _ => 0b001#3

/-- The operation's encoded trigger matches its row, and only REQ_WHILE_BUSY needs `busy = 1`. -/
def Statement (i : Instr) : Prop :=
  (encode i).trig &&& mask i = pattern i ∧ ((encode i).busy = true ↔ ∃ b, i = .reqWhileBusy b)

theorem reset (b d : Bool) : Statement (.reset b d) := ⟨by cases b <;> cases d <;> rfl, by simp [encode]⟩
theorem idle (b : Bool) : Statement (.idle b) := ⟨by cases b <;> rfl, by simp [encode]⟩
theorem decodeNoflip (p : Payload) : Statement (.decodeNoflip p) := ⟨by simp only [encode, mask, pattern]; decide, by simp [encode]⟩
theorem decodeFlipHi (p : Payload) : Statement (.decodeFlipHi p) := ⟨by simp only [encode, mask, pattern]; decide, by simp [encode]⟩
theorem decodeFlipLo (p : Payload) : Statement (.decodeFlipLo p) := ⟨by simp only [encode, mask, pattern]; decide, by simp [encode]⟩
theorem decodeFlipDead (p : Payload) : Statement (.decodeFlipDead p) := ⟨by simp only [encode, mask, pattern]; decide, by simp [encode]⟩
theorem decodeUnbound : Statement .decodeUnbound := ⟨rfl, by simp [encode]⟩
theorem reqWhileBusy (b : Bool) : Statement (.reqWhileBusy b) := ⟨by cases b <;> rfl, by simp [encode]⟩

end Sys2Proof.Laws.TableMatch
end

