-- ==== Sys2Proof/Laws/Steps.lean ====
section
/-!
SUPPORT. What each operation can do, said once: the guard, the eight meanings, a stage of a cycle-level DECODE, one clock
cycle, one step. Invariant proofs cite `step_induct` and need not unfold the machine.
-/

namespace Sys2Proof.Machine

open Host.Outcome

/-- The guard answers next exactly when FAULT is NONE, with the operation's effect (R142). -/
theorem taken_eq_next {s t : State} {f : State → State} : taken s f = .next t ↔ s.faultMark = .none ∧ t = f s := by
  unfold taken
  split <;> simp_all [eq_comm]

theorem taken_of_none {s : State} {f : State → State} (h : s.faultMark = .none) : taken s f = .next (f s) := by
  simp [taken, h]

theorem taken_of_fault {s : State} {f : State → State} (h : s.faultMark ≠ .none) :
    taken s f = .fault (.halted s.faultMark) := by
  simp [taken, h]

/-- A DECODE of any payload, under its class's name, is the whole transaction of R80. -/
theorem exec_decodeInstr {s : State} (p : Payload) (h : s.faultMark = .none) :
    exec (decodeInstr p) s = .next (decodeFrame p s) := by
  have hn := aux1Next_eq p (aux1Held s)
  unfold decodeFrame
  rcases classOf_cases p with ⟨hc, h'⟩ | ⟨hc, h'⟩ | ⟨hc, h'⟩ | ⟨hc, h'⟩ <;>
    simp only [decodeInstr, hc, exec, execDecodeNoflip, execDecodeFlipHi, execDecodeFlipLo, execDecodeFlipDead,
      taken_of_none h, Config.auxHiVal, Config.auxLoVal, hn] <;>
    first
      | rw [if_neg (by omega), if_neg (by omega)]
      | rw [if_pos (by omega)]
      | rw [if_neg (by omega), if_pos (by omega)]

/-! The four DECODE meanings in a state with FAULT = NONE (R93 to R96) -/

theorem exec_decodeNoflip {s : State} (p : Payload) (h : s.faultMark = .none) :
    exec (.decodeNoflip p) s = .next (decodeWith p (aux1Held s) s) := by simp [exec, execDecodeNoflip, taken_of_none h]

theorem exec_decodeFlipHi {s : State} (p : Payload) (h : s.faultMark = .none) :
    exec (.decodeFlipHi p) s = .next (decodeWith p 500 s) := by
  simp [exec, execDecodeFlipHi, taken_of_none h, Config.auxHiVal]

theorem exec_decodeFlipLo {s : State} (p : Payload) (h : s.faultMark = .none) :
    exec (.decodeFlipLo p) s = .next (decodeWith p (-500) s) := by
  simp [exec, execDecodeFlipLo, taken_of_none h, Config.auxLoVal]

theorem exec_decodeFlipDead {s : State} (p : Payload) (h : s.faultMark = .none) :
    exec (.decodeFlipDead p) s = .next (decodeWith p (aux1Held s) s) := by
  simp [exec, execDecodeFlipDead, taken_of_none h]

/-- What an operation can do when it answers next: RESET, nothing, a raised fault, or a DECODE. -/
theorem exec_cases {i : Instr} {s t : State} (h : exec i s = .next t) :
    s.faultMark = .none ∧
    ((∃ b d, i = .reset b d ∧ t = resetBlock s) ∨
     (∃ b, i = .idle b ∧ t = s) ∨
     (i = .decodeUnbound ∧ t = raiseFault .decodeUnbound s) ∨
     (∃ b, i = .reqWhileBusy b ∧ t = raiseFault .reqWhileBusy s) ∨
     (∃ p a, isDecode i = true ∧ t = decodeWith p a s ∧ (a = aux1Held s ∨ a = 500 ∨ a = -500))) := by
  cases i <;>
    simp only [exec, execReset, execIdle, execDecodeUnbound, execReqWhileBusy, execDecodeNoflip, execDecodeFlipHi,
      execDecodeFlipLo, execDecodeFlipDead, taken_eq_next] at h <;>
    obtain ⟨hf, rfl⟩ := h <;> refine ⟨hf, ?_⟩
  case reset b d => exact .inl ⟨b, d, rfl, rfl⟩
  case idle b => exact .inr (.inl ⟨b, rfl, rfl⟩)
  case decodeUnbound => exact .inr (.inr (.inl ⟨rfl, rfl⟩))
  case reqWhileBusy b => exact .inr (.inr (.inr (.inl ⟨b, rfl, rfl⟩)))
  all_goals
    refine .inr (.inr (.inr (.inr ⟨_, _, rfl, rfl, ?_⟩)))
    simp [Config.auxHiVal, Config.auxLoVal]

/-- No operation is taken from a faulted state (R142). -/
theorem exec_of_fault {s : State} (i : Instr) (h : s.faultMark ≠ .none) : exec i s = .fault (.halted s.faultMark) := by
  cases i <;>
    simp only [exec, execReset, execIdle, execDecodeUnbound, execReqWhileBusy, execDecodeNoflip, execDecodeFlipHi,
      execDecodeFlipLo, execDecodeFlipDead, taken_of_fault h]

/-! The rows of R60 and R144, one lemma each -/

theorem decodeOp_rst {b : Bool} {t : Trigger} {rd : Bus} (h2 : t.getLsbD 2 = true) :
    decodeOp ⟨b, t, rd⟩ = .reset (t.getLsbD 1) (t.getLsbD 0) := by
  simp only [decodeOp, trigRst, trigBound, trigDecReq, h2, if_true]

theorem decodeOp_noReq {b : Bool} {t : Trigger} {rd : Bus} (h2 : t.getLsbD 2 = false) (h0 : t.getLsbD 0 = false) :
    decodeOp ⟨b, t, rd⟩ = .idle (t.getLsbD 1) := by
  simp only [decodeOp, trigRst, trigBound, trigDecReq, h2, h0, Bool.not_false, Bool.false_eq_true, if_true, if_false]

theorem decodeOp_busy {t : Trigger} {rd : Bus} (h2 : t.getLsbD 2 = false) (h0 : t.getLsbD 0 = true) :
    decodeOp ⟨true, t, rd⟩ = .reqWhileBusy (t.getLsbD 1) := by
  simp only [decodeOp, trigRst, trigBound, trigDecReq, h2, h0, Bool.not_true, Bool.false_eq_true, if_true, if_false]

theorem decodeOp_bound {t : Trigger} {rd : Bus} (h2 : t.getLsbD 2 = false) (h0 : t.getLsbD 0 = true)
    (h1 : t.getLsbD 1 = true) : decodeOp ⟨false, t, rd⟩ = decodeInstr (payloadOfBus rd) := by
  simp only [decodeOp, trigRst, trigBound, trigDecReq, h2, h0, h1, Bool.not_true, Bool.false_eq_true, if_true, if_false]

theorem decodeOp_unbound {t : Trigger} {rd : Bus} (h2 : t.getLsbD 2 = false) (h0 : t.getLsbD 0 = true)
    (h1 : t.getLsbD 1 = false) : decodeOp ⟨false, t, rd⟩ = .decodeUnbound := by
  simp only [decodeOp, trigRst, trigBound, trigDecReq, h2, h0, h1, Bool.not_true, Bool.false_eq_true, if_false]

/-- The DECODE of a payload is a DECODE. -/
@[simp] theorem isDecode_decodeInstr (p : Payload) : isDecode (decodeInstr p) = true := by
  unfold decodeInstr; split <;> rfl

/-- What the decoder can answer (R60, R123): which row, and the trigger it needs. -/
theorem decodeOp_cases (b : Bool) (t : Trigger) (rd : Bus) :
    (t.getLsbD 2 = true ∧ decodeOp ⟨b, t, rd⟩ = .reset (t.getLsbD 1) (t.getLsbD 0)) ∨
    (t.getLsbD 2 = false ∧ t.getLsbD 0 = false ∧ decodeOp ⟨b, t, rd⟩ = .idle (t.getLsbD 1)) ∨
    (b = true ∧ t.getLsbD 2 = false ∧ t.getLsbD 0 = true ∧ decodeOp ⟨b, t, rd⟩ = .reqWhileBusy (t.getLsbD 1)) ∨
    (b = false ∧ t.getLsbD 2 = false ∧ t.getLsbD 0 = true ∧ t.getLsbD 1 = true ∧
      decodeOp ⟨b, t, rd⟩ = decodeInstr (payloadOfBus rd)) ∨
    (b = false ∧ t.getLsbD 2 = false ∧ t.getLsbD 0 = true ∧ t.getLsbD 1 = false ∧
      decodeOp ⟨b, t, rd⟩ = .decodeUnbound) := by
  cases h2 : t.getLsbD 2
  · cases h0 : t.getLsbD 0
    · exact .inr (.inl ⟨rfl, rfl, decodeOp_noReq h2 h0⟩)
    · cases b
      · cases h1 : t.getLsbD 1
        · exact .inr (.inr (.inr (.inr ⟨rfl, rfl, rfl, rfl, decodeOp_unbound h2 h0 h1⟩)))
        · exact .inr (.inr (.inr (.inl ⟨rfl, rfl, rfl, rfl, decodeOp_bound h2 h0 h1⟩)))
      · exact .inr (.inr (.inl ⟨rfl, rfl, rfl, decodeOp_busy h2 h0⟩))
  · exact .inl ⟨rfl, decodeOp_rst h2⟩

/-- What a stage of a cycle-level DECODE can do when it answers next. -/
theorem stageStep_cases {s t : State} (h : stageStep s = .next t) :
    (t = s ∧ (s.phase = .idle ∨ s.phase = .busy .read)) ∨
    (s.phase = .busy .flush ∧ t = setPhase (.busy .clear) (flushStep s)) ∨
    (s.phase = .busy .clear ∧ t = setPhase (.busy .commit) (clearStep s)) ∨
    (∃ p, s.phase = .busy .commit ∧ s.pb = some p ∧
      t = setPhase .idle (failsafeReset (commitPayload p (aux1Next p (aux1Held s)) s))) := by
  unfold stageStep at h
  split at h <;> (try split at h) <;> simp_all [eq_comm]

/-- No stage touches FAULT. -/
theorem stageStep_faultMark {s t : State} (h : stageStep s = .next t) : t.faultMark = s.faultMark := by
  rcases stageStep_cases h with ⟨rfl, -⟩ | ⟨-, rfl⟩ | ⟨-, rfl⟩ | ⟨p, -, -, rfl⟩ <;> rfl

/-- A property every stage keeps is kept by any number of them. -/
theorem advance_induct {P : State → Prop} (hs : ∀ s t, P s → stageStep s = .next t → P t) :
    ∀ (n : Nat) (s t : State), P s → advance n s = .next t → P t
  | 0, s, t, hp, h => by simp only [advance, Host.Outcome.next.injEq] at h; exact h ▸ hp
  | n + 1, s, t, hp, h => by
    simp only [advance] at h
    split at h
    · rename_i u hu; exact advance_induct hs n u t (hs s u hp hu) h
    · cases h
    · cases h

/-- The work of a DECODE in progress keeps what its read's answer and each of its stages keep. -/
theorem cycleWork_induct {P : State → Prop} {ack : Bool} {rd : Bus} {n : Nat} {s t : State}
    (hread : ∀ p, s.phase = .busy .read → P s → P (setPhase (.busy .flush) (readStep p s)))
    (hstage : ∀ u v, P u → stageStep u = .next v → P v)
    (hs : P s) (h : cycleWork ack rd n s = .next t) : P t := by
  refine advance_induct hstage n _ t ?_ h
  unfold answerRead
  split
  · rename_i hr; exact hread _ hr.1 hs
  · exact hs

/-- No work of a DECODE in progress touches FAULT. -/
theorem cycleWork_faultMark {ack : Bool} {rd : Bus} {n : Nat} {s t : State} (h : cycleWork ack rd n s = .next t) :
    t.faultMark = s.faultMark :=
  cycleWork_induct (P := fun u => u.faultMark = s.faultMark) (fun _ _ h => h)
    (fun _ _ hu hv => (stageStep_faultMark hv).trans hu) rfl h

/-- In a step that answers next, the state was not faulted, and the step did what its sample says. -/
theorem step_eq_next {s t : State} :
    step s = .next t ↔ s.faultMark = .none ∧ respond (nextSample s) (lowerPulses (takeSample s)) = .next t := by
  unfold step
  split <;> simp_all

/-- The state a step works on: its inputs sampled, the pulses of the step before over. -/
def prepared (s : State) : State := lowerPulses (takeSample s)

theorem step_of_none {s : State} (h : s.faultMark = .none) : step s = respond (nextSample s) (prepared s) := by
  simp [step, h, prepared]

theorem step_of_fault {s : State} (h : s.faultMark ≠ .none) : step s = .fault (.halted s.faultMark) := by
  simp [step, h]

/-- What one clock cycle can do when it answers next: accept a DECODE, raise a fault, or run RESET or IDLE and work on the
DECODE in progress, if there is one. -/
theorem cycle_cases {t : Trigger} {ack : Bool} {rd : Bus} {n : Nat} {s u : State} (hf : s.faultMark = .none)
    (h : cycle t ack rd n s = .next u) :
    (s.phase = .idle ∧ t.getLsbD 2 = false ∧ t.getLsbD 1 = true ∧ t.getLsbD 0 = true ∧
      u = accept s) ∨
    (∃ c, c ≠ .none ∧ u = raiseFault c s) ∨
    (cycleWork ack rd n (resetBlock s) = .next u) ∨
    (t.getLsbD 2 = false ∧ t.getLsbD 0 = false ∧ cycleWork ack rd n s = .next u) := by
  unfold cycle at h
  simp only at h
  rcases decodeOp_cases s.busy t 0 with ⟨h2, hi⟩ | ⟨h2, h0, hi⟩ | ⟨hb, h2, h0, hi⟩ | ⟨hb, h2, h0, h1, hi⟩ |
    ⟨hb, h2, h0, h1, hi⟩ <;> rw [hi] at h
  · simp only [isDecode, exec, execReset, taken_of_none hf, resetBlock_faultMark, hf, if_true, Bool.false_eq_true,
      if_false] at h
    exact .inr (.inr (.inl h))
  · simp only [isDecode, exec, execIdle, taken_of_none hf, id, hf, if_true, Bool.false_eq_true, if_false] at h
    exact .inr (.inr (.inr ⟨h2, h0, h⟩))
  · simp [isDecode, exec, execReqWhileBusy, taken_of_none hf] at h
    exact .inr (.inl ⟨_, by simp, h.symm⟩)
  · simp only [isDecode_decodeInstr, if_true, Host.Outcome.next.injEq] at h
    exact .inl ⟨by simpa using hb, h2, h1, h0, h.symm⟩
  · simp [isDecode, exec, execDecodeUnbound, taken_of_none hf] at h
    exact .inr (.inl ⟨_, by simp, h.symm⟩)

/-- WHAT A STEP CAN DO, once: the state it leaves has any property that holds of the prepared state, of what RESET, a raised
fault, an accepted DECODE and a whole DECODE (the last two from an IDLE block) make of it, and that the read's answer and
each stage of a DECODE in progress keep. -/
theorem step_induct {P : State → Prop} {s t : State}
    (hprep : P (prepared s))
    (hreset : P (resetBlock (prepared s)))
    (hfault : ∀ c, c ≠ .none → P (raiseFault c (prepared s)))
    (hframe : ∀ p, (prepared s).phase = .idle → P (decodeFrame p (prepared s)))
    (haccept : (prepared s).phase = .idle → P (accept (prepared s)))
    (hread : ∀ u p, u.faultMark = .none → u.phase = .busy .read → P u → P (setPhase (.busy .flush) (readStep p u)))
    (hstage : ∀ u v, u.faultMark = .none → P u → stageStep u = .next v → P v)
    (h : step s = .next t) : P t := by
  rw [step_eq_next] at h
  obtain ⟨hf, h⟩ := h
  have hf' : (prepared s).faultMark = .none := by simp [prepared, hf]
  have hwork : ∀ ack rd n v u, v.faultMark = .none → P v → cycleWork ack rd n v = .next u → P u := by
    intro ack rd n v u hvf hv hu
    exact (cycleWork_induct (P := fun w => w.faultMark = .none ∧ P w) (fun p hr h => ⟨h.1, hread v p h.1 hr h.2⟩)
      (fun a b ha hb => ⟨stageStep_faultMark hb ▸ ha.1, hstage a b ha.1 ha.2 hb⟩) ⟨hvf, hv⟩ hu).2
  change respond (nextSample s) (prepared s) = .next t at h
  unfold respond at h
  split at h
  · rename_i tr rd _
    rcases decodeOp_cases (prepared s).busy tr rd with ⟨-, hi⟩ | ⟨-, -, hi⟩ | ⟨-, -, -, hi⟩ | ⟨hb, -, -, -, hi⟩ |
      ⟨-, -, -, -, hi⟩ <;> rw [hi] at h
    · simp only [exec, execReset, taken_of_none hf', Host.Outcome.next.injEq] at h; exact h ▸ hreset
    · simp only [exec, execIdle, taken_of_none hf', Host.Outcome.next.injEq] at h; exact h ▸ hprep
    · simp only [exec, execReqWhileBusy, taken_of_none hf', Host.Outcome.next.injEq] at h; exact h ▸ hfault _ (by simp)
    · rw [exec_decodeInstr _ hf', Host.Outcome.next.injEq] at h; exact h ▸ hframe _ (by simpa using hb)
    · simp only [exec, execDecodeUnbound, taken_of_none hf', Host.Outcome.next.injEq] at h; exact h ▸ hfault _ (by simp)
  · rcases cycle_cases hf' h with ⟨hi, -, -, -, rfl⟩ | ⟨c, hc, rfl⟩ | h | ⟨-, -, h⟩
    · exact haccept hi
    · exact hfault _ hc
    · exact hwork _ _ _ (resetBlock (prepared s)) _ (by simpa using hf') hreset h
    · exact hwork _ _ _ _ _ hf' hprep h

/-! The prepared state: as the state before, but its pulses low and its oldest sample taken -/

@[simp] theorem prepared_ch (s : State) : (prepared s).ch = s.ch := by simp [prepared]
@[simp] theorem prepared_pb (s : State) : (prepared s).pb = s.pb := by simp [prepared]
@[simp] theorem prepared_faultMark (s : State) : (prepared s).faultMark = s.faultMark := by simp [prepared]
@[simp] theorem prepared_hist (s : State) : (prepared s).hist = s.hist := by simp [prepared]
@[simp] theorem prepared_phase (s : State) : (prepared s).phase = s.phase := by simp [prepared]
@[simp] theorem prepared_flushRx (s : State) : (prepared s).flushRx = false := by simp [prepared]
@[simp] theorem prepared_clrStatus (s : State) : (prepared s).clrStatus = false := by simp [prepared]
@[simp] theorem prepared_fsClr (s : State) : (prepared s).fsClr = false := by simp [prepared]

/-! A block with no DECODE in progress has no work to do in a cycle -/

theorem advance_idle (n : Nat) (s : State) (h : s.phase = .idle) : advance n s = .next s := by
  induction n with
  | zero => rfl
  | succ n ih => simp only [advance, stageStep, h, ih]

theorem cycleWork_idle {ack : Bool} {rd : Bus} {n : Nat} {s : State} (h : s.phase = .idle) :
    cycleWork ack rd n s = .next s := by
  simp [cycleWork, answerRead, h, advance_idle]

/-- Nor has a block whose read is not answered. -/
theorem advance_read (n : Nat) (s : State) (h : s.phase = .busy .read) : advance n s = .next s := by
  induction n with
  | zero => rfl
  | succ n ih => simp only [advance, stageStep, h, ih]

/-! The two kinds of cycle a DECODE is made of -/

/-- The accepting cycle of an IDLE block, whatever its other inputs. -/
theorem cycle_accept {s : State} (ack : Bool) (rd : Bus) (n : Nat) (h : s.phase = .idle) :
    cycle 0b011#3 ack rd n s = .next (accept s) := by
  have hb : s.busy = false := by simp [h]
  simp only [cycle, hb, decodeOp_bound (t := 0b011#3) rfl rfl rfl, isDecode_decodeInstr, if_true]

/-- A cycle with `rst = 0` and `dec_req = 0` is the work of the DECODE in progress. -/
theorem cycle_quiet {s : State} {t : Trigger} (ack : Bool) (rd : Bus) (n : Nat) (hf : s.faultMark = .none)
    (h2 : t.getLsbD 2 = false) (h0 : t.getLsbD 0 = false) : cycle t ack rd n s = cycleWork ack rd n s := by
  simp only [cycle, decodeOp_noReq h2 h0, isDecode, exec, execIdle, taken_of_none hf, id, hf, if_true,
    Bool.false_eq_true, if_false]

/-! The whole DECODE, field by field -/

@[simp] theorem decodeFrame_ch (p : Payload) (s : State) :
    (decodeFrame p s).ch = s.ch.committed (throttle p) (roll p) (pitch p) (yaw p) (aux1Next p (aux1Held s)) := by
  simp [decodeFrame]
@[simp] theorem decodeFrame_pb (p : Payload) (s : State) : (decodeFrame p s).pb = some p := rfl
@[simp] theorem decodeFrame_hist (p : Payload) (s : State) :
    (decodeFrame p s).hist = s.hist ++ frameEvents p (aux1Next p (aux1Held s)) := by simp [decodeFrame]
@[simp] theorem decodeFrame_faultMark (p : Payload) (s : State) : (decodeFrame p s).faultMark = s.faultMark := rfl
@[simp] theorem decodeFrame_phase (p : Payload) (s : State) : (decodeFrame p s).phase = s.phase := rfl
@[simp] theorem decodeFrame_flushRx (p : Payload) (s : State) : (decodeFrame p s).flushRx = true := rfl
@[simp] theorem decodeFrame_clrStatus (p : Payload) (s : State) : (decodeFrame p s).clrStatus = true := rfl
@[simp] theorem decodeFrame_fsClr (p : Payload) (s : State) : (decodeFrame p s).fsClr = true := rfl

@[simp] theorem accept_eq (s : State) : accept s = setPhase (.busy .read) s := rfl

/-- A property every step keeps is kept by a run (the host's `Core.run` over `step`). -/
theorem run_induct {P : State → Prop} (hs : ∀ s t, P s → step s = .next t → P t) (k : Nat) (s t : State)
    (h : P s) (hr : Host.Core.run { State := State, Fault := Fault, Refusal := Refusal, step := step, reset := State.reset } k s
      = .next t) : P t := by
  induction k generalizing s with
  | zero => injection hr with hr; exact hr ▸ h
  | succ k ih =>
    simp only [Host.Core.run] at hr
    split at hr
    · rename_i u hu; exact ih u (hs s u h hu) hr
    · cases hr
    · cases hr

end Sys2Proof.Machine
end

