-- ==== Sys2Proof/Tests/Slice0.lean ====
section
/-!
SUPPORT. Tests. Expected values are those of spec/95_test_vectors.md and spec/opcode_table.json, or computed by hand from
the rule named; and for each obligation with hypotheses a witness that meets them all.
-/

namespace Sys2Proof.Tests

open Sys2Proof Sys2Proof.Machine Sys2Proof.Safety

/-! ### Helpers -/

/-- The outcome is a next state that passes a check. -/
def nextIs (o : Result) (f : State → Bool) : Bool :=
  match o with
  | .next t => f t
  | .fault _ => false
  | .refused _ => false

/-- The reset state with given channels, in decimal. -/
def withCh (t r p y a x : Int) : State :=
  { State.reset with ch := ⟨to16 t, to16 r, to16 p, to16 y, to16 a, to16 x⟩ }

/-- The channels of a state, in decimal. -/
def chDec (s : State) : List Int :=
  [signed s.ch.thr, signed s.ch.rol, signed s.ch.pit, signed s.ch.yaw, signed s.ch.aux1, signed s.ch.aux2]

/-- The payloads of vectors V1, V2, V6 to V8, V10, V11 and law L-IG. -/
def pV1 : Payload := ⟨0, 0, 0, 0, 0, 0, 0, 0, 0⟩
def pV2 : Payload := ⟨0xFF, 0xFF, 0xFF, 0xFF, 0xFF, 0xFF, 0xFF, 0xFF, 0xFF⟩
def pV6 : Payload := ⟨0x80, 0x80, 0x00, 0xF1, 0x80, 0x00, 0x00, 0x01, 0x00⟩
def pV7 : Payload := ⟨0x80, 0x80, 0x00, 0x0E, 0x80, 0x00, 0x00, 0x08, 0x00⟩
def pV8 : Payload := ⟨0x80, 0x80, 0x00, 0xF0, 0x80, 0x00, 0x00, 0x0F, 0x00⟩
def pV9 : Payload := ⟨0x80, 0x80, 0x00, 0x0F, 0x80, 0x00, 0x00, 0xFF, 0x00⟩
def pV10 : Payload := ⟨0x80, 0x80, 0x00, 0x05, 0x80, 0x00, 0x00, 0xF0, 0x00⟩
def pV11 : Payload := ⟨0x80, 0x80, 0xAA, 0x80, 0x80, 0x55, 0x33, 0xC0, 0x77⟩
def pIG : Payload := ⟨0x80, 0x80, 0x00, 0x80, 0x80, 0x00, 0x00, 0x00, 0x00⟩

/-! ### Well-formedness: each class check refuses a payload of another class (R65) -/

theorem test_wellFormed_noflip_refuses_flip : wellFormed (.decodeNoflip pV6) = false := by decide
theorem test_wellFormed_flipHi_refuses_dead_bound : wellFormed (.decodeFlipHi pV8) = false := by decide
theorem test_wellFormed_flipLo_refuses_dead_bound : wellFormed (.decodeFlipLo pV9) = false := by decide
theorem test_wellFormed_flipDead_refuses_high_nibble_only : wellFormed (.decodeFlipDead pV10) = false := by decide
theorem test_wellFormed_accepts :
    (wellFormed (.decodeNoflip pV10) && wellFormed (.decodeFlipHi pV6) && wellFormed (.decodeFlipLo pV7) &&
      wellFormed (.decodeFlipDead pV8) && wellFormed (.decodeFlipDead pV9)) = true := by decide

/-! ### Decoding: words written out from the table and the vectors -/

theorem test_decode_reset_wins : decodeOp ⟨true, 0b111#3, 0⟩ = .reset true true := by decide
theorem test_decode_idle : decodeOp ⟨false, 0b010#3, 0⟩ = .idle true := by decide
theorem test_decode_unbound : decodeOp ⟨false, 0b001#3, 0⟩ = .decodeUnbound := by decide
theorem test_decode_busy : decodeOp ⟨true, 0b011#3, 0x0001000080F1008080#72⟩ = .reqWhileBusy true := by decide
theorem test_decode_noflip_V10 : decodeOp ⟨false, 0b011#3, 0x00F000008005008080#72⟩ = .decodeNoflip pV10 := by decide
theorem test_decode_flipHi_V6 : decodeOp ⟨false, 0b011#3, 0x0001000080F1008080#72⟩ = .decodeFlipHi pV6 := by decide
theorem test_decode_flipLo_V7 : decodeOp ⟨false, 0b011#3, 0x00080000800E008080#72⟩ = .decodeFlipLo pV7 := by decide
theorem test_decode_flipDead_V8 : decodeOp ⟨false, 0b011#3, 0x000F000080F0008080#72⟩ = .decodeFlipDead pV8 := by decide
theorem test_bus_V11 : payloadOfBus 0x77C033558080AA8080#72 = pV11 := by decide
theorem test_bytes_truncated : decodeBytes [0b011#8, 0x80#8] = .error .truncated := by rfl
theorem test_bytes_reserved : decodeBytes [0b10000#8] = .error .reservedBits := by rfl
theorem test_bytes_empty : decodeBytes [] = .error .empty := by rfl
theorem test_table_word_reset : decodeTableWord 8 0b100 = some (.reset false false) := by decide
theorem test_table_word_decode : decodeTableWord 8 0b011 = some (.decodeNoflip pV1) := by decide
/-- The word of V6 as one number: the trigger byte, then P[0] to P[8]. -/
theorem test_table_word_V6 : decodeTableWord 80 0x0001000080F100808003 = some (.decodeFlipHi pV6) := by decide

/-! ### Meanings: one step each -/

theorem test_reset_C_R1 :
    nextIs (exec (.reset false false) (withCh 1000 500 (-500) 0 500 0))
      (fun t => t.ch == Channels.zero && t.hist == [.reset] && t.pb == none) = true := by decide
theorem test_idle_C_I1 :
    nextIs (exec (.idle false) (withCh 512 0 (-492) 0 0 0)) (fun t => t == withCh 512 0 (-492) 0 0 0) = true := by decide
theorem test_noflip_V1 :
    nextIs (exec (.decodeNoflip pV1) State.reset) (fun t => chDec t == [0, -500, -500, -500, 0, 0]) = true := by decide
theorem test_noflip_V10_holds :
    nextIs (exec (.decodeNoflip pV10) (withCh 0 0 0 0 500 0)) (fun t => chDec t == [512, 0, -492, 0, 500, 0]) = true := by
  decide
theorem test_flipHi_V6 :
    nextIs (exec (.decodeFlipHi pV6) (withCh 0 0 0 0 (-500) 0)) (fun t => chDec t == [512, 0, 452, 0, 500, 0]) = true := by
  decide
theorem test_flipHi_V2_events :
    nextIs (exec (.decodeFlipHi pV2) State.reset) (fun t => t.hist ==
      [.read 9 pV2, .flushRx, .clearStatus, .commit 1000 500 500 500 500, .fsClr] && t.pb == some pV2) = true := by decide
theorem test_flipLo_V7 :
    nextIs (exec (.decodeFlipLo pV7) (withCh 0 0 0 0 500 0)) (fun t => chDec t == [512, 0, -456, 0, -500, 0]) = true := by
  decide
theorem test_flipDead_V8 :
    nextIs (exec (.decodeFlipDead pV8) (withCh 0 0 0 0 500 0)) (fun t => chDec t == [512, 0, 448, 0, 500, 0]) = true := by
  decide
theorem test_flipDead_V9 :
    nextIs (exec (.decodeFlipDead pV9) (withCh 0 0 0 0 (-500) 0)) (fun t => chDec t == [512, 0, -452, 0, -500, 0]) = true := by
  decide
theorem test_unbound_C_U1 :
    nextIs (exec .decodeUnbound State.reset) (fun t => t == { State.reset with faultMark := .decodeUnbound }) = true := by
  decide
/-- C-B1: dec_req in a cycle with busy = 1. -/
theorem test_busy_C_B1 :
    nextIs (cycle 0b011#3 true 0 4 { State.reset with phase := .busy .commit, pb := some pV1, hist := [.read 9 pV1, .flushRx, .clearStatus] })
      (fun t => t.faultMark == .reqWhileBusy && t.ch == Channels.zero && t.hist == [.read 9 pV1, .flushRx, .clearStatus]) = true := by
  decide
/-- C-R2: RESET wins over a DECODE request. -/
theorem test_reset_wins_C_R2 :
    nextIs (step { State.reset with script := [.transaction 0b111#3 0x00FF00000000000000#72] })
      (fun t => t.hist == [.reset]) = true := by decide
/-- A RESET cycle abandons a DECODE that has read and flushed (R120). -/
theorem test_reset_abandons :
    nextIs (cycle 0b110#3 true 0 4 { State.reset with phase := .busy .clear, pb := some pV1, hist := [.read 9 pV1, .flushRx] })
      (fun t => t.hist == [.read 9 pV1, .flushRx, .reset] && t.phase == .idle && t.pb == none) = true := by decide
/-- R120: however far a DECODE is from done, a RESET leaves neither its EV_COMMIT nor its EV_FS_CLR; with a pace of 2 the
commit has not come, with 3 the failsafe reset has come with it. -/
theorem test_no_reset_between_commit_and_fs_clr :
    nextIs (cycle 0b010#3 true 0 2 { State.reset with phase := .busy .read }) (fun t => t.phase == .busy .commit && t.ch == Channels.zero &&
      t.hist == [.read 9 pV1, .flushRx, .clearStatus]) = true ∧
    nextIs (cycle 0b010#3 true 0 3 { State.reset with phase := .busy .read }) (fun t => t.phase == .idle && t.fsClr &&
      t.hist == [.read 9 pV1, .flushRx, .clearStatus, .commit 0 (-500) (-500) (-500) 0, .fsClr]) = true := by decide
/-- An accepting cycle raises rd_req and samples nothing, even with rd_ack = 1 in it: BUSY, nothing recorded (R25, R81). -/
theorem test_accept_raises_rd_req :
    nextIs (cycle 0b011#3 true 0x0001000080F1008080#72 4 State.reset) (fun t =>
      (outputsOf t).rdReq && (outputsOf t).busy && t.hist == [] && t.pb == none) = true := by decide
/-- The datapath's centre and edges (R64, R97). -/
theorem test_axis_edges : ([0x02#8, 0x03#8, 0x40#8, 0x80#8, 0xFD#8, 0xFE#8].map axisOf) = [-500, -500, -256, 0, 500, 500] := by
  decide
theorem test_throttle_edges : ([0x00#8, 0x80#8, 0xFA#8, 0xFB#8].map throttleOf) = [0, 512, 1000, 1000] := by decide
theorem test_fetch_word_runs :
    nextIs (step (State.reset.withFetchWord 8 0b001)) (fun t => t.faultMark == .decodeUnbound) = true := by decide
theorem test_fetch_word_busy :
    nextIs (step (State.reset.withFetchWord 8 0b1001)) (fun t => t.faultMark == .reqWhileBusy) = true := by decide

/-! ### Witnesses: every obligation with hypotheses has states and operands that meet them all -/

/-- A launch whose host has supplied the whole sample of V2. -/
def sV2 : State := launched [.transaction 0b011#3 0xFFFFFFFFFFFFFFFFFF#72]
/-- A block waiting for its read's answer, two unanswered cycles ahead. -/
def sWait : State :=
  { State.reset with phase := .busy .read, script := [.cycle 0b000#3 false 0 1, .cycle 0b010#3 false 0 7] }
/-- A block about to commit, a RESET cycle ahead. -/
def sAbandon : State :=
  { State.reset with
    phase := .busy .commit, pb := some pV6, hist := [.reset, .read 9 pV6, .flushRx, .clearStatus],
    script := [.cycle 0b110#3 true 0 3] }
/-- A block accepting a DECODE, then answered, then working. -/
def sAccept : State :=
  launched [.cycle 0b011#3 false 0 0, .cycle 0b010#3 true 0x0001000080F1008080#72 1, .cycle 0b010#3 false 0 1, .cycle 0b010#3 false 0 9]

theorem witness_StepPerformsTheFirstMatchingRow :
    (∀ t : Trigger, ∃ s : State, s.faultMark = .none ∧ s.phase = .idle ∧ s.script = [.transaction t 0]) ∧
    (0b110#3).getLsbD 2 = true ∧ ((0b010#3).getLsbD 2 = false ∧ (0b010#3).getLsbD 0 = false) ∧
    ((0b011#3).getLsbD 2 = false ∧ (0b011#3).getLsbD 1 = true ∧ (0b011#3).getLsbD 0 = true) ∧
    ((0b001#3).getLsbD 2 = false ∧ (0b001#3).getLsbD 1 = false ∧ (0b001#3).getLsbD 0 = true) :=
  ⟨fun t => ⟨launched [.transaction t 0], rfl, rfl, rfl⟩, by decide⟩

theorem witness_StepRunsTheDecodedOperation :
    (sV2.faultMark = .none ∧ sV2.script = [.transaction 0b011#3 0xFFFFFFFFFFFFFFFFFF#72]) ∧
    (sWait.faultMark = .none ∧ sWait.script = .cycle 0b000#3 false 0 1 :: [.cycle 0b010#3 false 0 7]) ∧
    (State.reset.faultMark = .none ∧ State.reset.script = []) := by decide

theorem witness_PrecedenceOfSimultaneousInputs :
    ({ State.reset with faultMark := .decodeUnbound } : State).faultMark ≠ .none ∧
    (State.reset.faultMark = .none ∧ State.reset.busy = false) ∧ (sWait.faultMark = .none ∧ sWait.busy = true) ∧
    (∀ t : Trigger, sampleTrigger (nextSample (launched [.transaction t 0])) = t ∧
      sampleTrigger (nextSample { sWait with script := [.cycle t false 0 0] }) = t) :=
  ⟨by decide, by decide, by decide, fun _ => ⟨rfl, rfl⟩⟩

theorem witness_DecodeEncodeAgree :
    wellFormed (.reset true true) = true ∧ wellFormed (.decodeFlipLo pV7) = true := by decide

theorem witness_EncodeDecodeKeepsTheSample :
    isDecode (decodeOp ⟨false, 0b011#3, 0x000F000080F0008080#72⟩) = true := by decide

theorem witness_ByteForm : wellFormed (.decodeFlipDead pV9) = true := by decide

/-- For the statements over a payload and an unfaulted state, each class and each bound of its range. -/
theorem witness_decode_classes :
    State.reset.faultMark = .none ∧
    (pV10.p7.toNat % 16 = 0) ∧
    (pV6.p7.toNat % 16 ≠ 0 ∧ pV6.p3.toNat > 0xF0 ∧ pV6.p3 = 0xF1#8) ∧ (pV2.p7.toNat % 16 ≠ 0 ∧ pV2.p3 = 0xFF#8) ∧
    (pV7.p7.toNat % 16 ≠ 0 ∧ pV7.p3.toNat < 0x0F ∧ pV7.p3 = 0x0E#8) ∧
    (({ pV7 with p3 := 0x02#8 } : Payload).p3.toNat ≤ 0x02) ∧
    (pV8.p7.toNat % 16 ≠ 0 ∧ 0x0F ≤ pV8.p3.toNat ∧ pV8.p3.toNat ≤ 0xF0) ∧
    (pV9.p7.toNat % 16 ≠ 0 ∧ 0x0F ≤ pV9.p3.toNat ∧ pV9.p3.toNat ≤ 0xF0) := by decide

/-- The classes of those payloads, for the statements that name a class. -/
theorem witness_class_names :
    classOf pV6 = .flipHi ∧ classOf pV7 = .flipLo ∧ classOf pV8 = .flipDead ∧ classOf pV10 = .noflip ∧
    decodeInstr pV6 = .decodeFlipHi pV6 ∧ decodeInstr pV7 = .decodeFlipLo pV7 := by decide

/-- The corner bytes of R84 to R87 and R97 are bytes, and a payload carries each in its place. -/
theorem witness_corner_bytes :
    ({ pV1 with p0 := 0xFA#8 } : Payload).p0 = 0xFA#8 ∧ 0xFB ≤ ({ pV1 with p0 := 0xFB#8 } : Payload).p0.toNat ∧
    (0x03#8).toNat ≤ 0x03 ∧ 0xFD ≤ (0xFD#8).toNat := by decide

theorem witness_FlipDetection :
    (0xF1#8).toNat % 16 = pV6.p7.toNat % 16 ∧ State.reset.faultMark = .none := by decide

/-- L-IG: V11 and its twin differ in every ignored bit group and agree on the rest. -/
theorem witness_IgnoredBits :
    pV11 ≠ pIG ∧ pV11.p0 = pIG.p0 ∧ pV11.p1 = pIG.p1 ∧ pV11.p3 = pIG.p3 ∧ pV11.p4 = pIG.p4 ∧
    pV11.p7.extractLsb' 0 4 = pIG.p7.extractLsb' 0 4 := by decide

theorem witness_Idempotent :
    State.reset.faultMark = .none ∧ (withCh 0 0 0 0 (-500) 0).faultMark = .none := by decide

theorem witness_no_fsClr : isDecode (.idle true) = false ∧ ∃ t, exec (.idle true) State.reset = .next t :=
  ⟨rfl, _, rfl⟩

theorem witness_arithmetic :
    (∃ v, v = aux1Next pV8 (-500) ∧ v = -500) ∧ (0x02#8).toNat ≤ (0x03#8).toNat ∧ (0xFA#8).toNat = (0xF9#8).toNat + 1 ∧
    (0xFD#8).toNat = (0xFC#8).toNat + 1 ∧ 0x03 ≤ (0xFC#8).toNat ∧ 0xFA ≤ (0xFA#8).toNat :=
  ⟨⟨_, rfl, by decide⟩, by decide⟩

theorem witness_ResetResult :
    State.reset.faultMark = .none ∧ (∃ t, exec (.reset true false) sWait = .next t) ∧
    ({ State.reset with faultMark := .reqWhileBusy } : State).faultMark ≠ .none :=
  ⟨rfl, ⟨_, rfl⟩, by decide⟩

theorem witness_raised_faults :
    (∃ t, exec .decodeUnbound State.reset = .next t) ∧ (∃ t, exec (.reqWhileBusy false) sWait = .next t) ∧
    (sWait.faultMark = .none ∧ sWait.busy = true ∧ (0b011#3).getLsbD 2 = false ∧ (0b011#3).getLsbD 1 = true ∧
      (0b011#3).getLsbD 0 = true) :=
  ⟨⟨_, rfl⟩, ⟨_, rfl⟩, by decide⟩

theorem witness_BusyRequestWithBoundLow :
    sWait.faultMark = .none ∧ sWait.busy = true ∧
    sampleTrigger (nextSample { sWait with script := [.cycle 0b001#3 false 0 0] }) = 0b001#3 := by decide

theorem witness_ResetAbandons :
    sAbandon.faultMark = .none ∧ HistoryOrdered sAbandon ∧ (sampleTrigger (nextSample sAbandon)).getLsbD 2 = true ∧
    sAbandon.phase ≠ .idle ∧ HistoryOrdered State.reset ∧ State.reset.phase = .idle :=
  ⟨rfl, rfl, by decide, by decide, rfl, rfl⟩

theorem witness_FaultMarkIsSticky :
    (∃ s t : State, exec .decodeUnbound s = .next t ∧ t.faultMark ≠ s.faultMark) ∧
    (∃ t, step (launched [.cycle 0b001#3 false 0 0]) = .next t ∧ t.faultMark = .decodeUnbound) ∧
    (∃ t, step { sWait with script := [.cycle 0b011#3 true 0 3] } = .next t ∧ t.faultMark = .reqWhileBusy) :=
  ⟨⟨State.reset, _, rfl, by decide⟩, ⟨_, rfl, rfl⟩, ⟨_, rfl, rfl⟩⟩

theorem witness_OutputPorts : ∃ t, step sAbandon = .next t := ⟨_, rfl⟩

theorem witness_FaultsArePrecise :
    ∃ s t : State, step s = .next t ∧ t.faultMark ≠ .none :=
  ⟨launched [.transaction 0b001#3 0], { State.reset with faultMark := .decodeUnbound }, rfl, by decide⟩

theorem witness_ResetStateValues : ∃ t, exec (.reset false true) sWait = .next t := ⟨_, rfl⟩

theorem witness_channel_writers :
    (∃ t, exec (decodeInstr pV6) State.reset = .next t) ∧ isDecode (decodeInstr pV6) = true ∧
    (∃ t, exec (.reset false true) State.reset = .next t) ∧ (∃ t, exec (.idle false) State.reset = .next t) :=
  ⟨⟨_, rfl⟩, by decide, ⟨_, rfl⟩, ⟨_, rfl⟩⟩

theorem witness_OnlyNine : (8 : Nat) ≠ 9 := by decide

theorem witness_step_of_invariants :
    ChannelsLegal sV2.ch ∧ HistoryOrdered sV2 ∧ HistoryAccounts sV2 ∧ PayloadHeld sV2 ∧ sV2.faultMark = .none ∧
    ∃ t, step sV2 = .next t :=
  ⟨by constructor <;> simp [sV2, launched, State.reset, Channels.zero, InRange], rfl, ⟨rfl, rfl⟩, .inl rfl, rfl, _, rfl⟩

theorem witness_ReachableChannelsLegal : ∃ t, core.run 1 sV2 = .next t := ⟨_, rfl⟩

theorem witness_CycleDecodeRefinesTransaction :
    ∃ x xs t, sAccept.faultMark = .none ∧ sAccept.phase = .idle ∧ sAccept.script = x :: (xs ++ []) ∧ Accepts x ∧
      (∀ y ∈ xs, Quiet y) ∧ core.run (xs.length + 1) sAccept = .next t ∧ t.phase = .idle ∧
      t.ch.aux1 = 500#16 :=
  ⟨.cycle 0b011#3 false 0 0,
    [.cycle 0b010#3 true 0x0001000080F1008080#72 1, .cycle 0b010#3 false 0 1, .cycle 0b010#3 false 0 9], _,
    rfl, rfl, rfl, rfl, by simp [Quiet]; decide, rfl, rfl, rfl⟩

theorem witness_ShortestDecode :
    State.reset.faultMark = .none ∧ State.reset.phase = .idle ∧ (0b010#3).getLsbD 2 = false ∧ (0b010#3).getLsbD 0 = false ∧
    3 ≤ 3 := by decide

/-- For BusIsReadOnlyInTheAnswer too (the last part). -/
theorem witness_ReadHandshake :
    (State.reset.faultMark = .none ∧ State.reset.phase = .idle) ∧
    (sWait.faultMark = .none ∧ sWait.phase = .busy .read ∧ (0b000#3).getLsbD 2 = false ∧ (0b000#3).getLsbD 0 = false) ∧
    State.reset.phase ≠ .busy .read := by decide

theorem witness_UnansweredReadStaysBusy :
    ∃ xs, sWait.faultMark = .none ∧ sWait.phase = .busy .read ∧ sWait.script = xs ++ [] ∧ (∀ y ∈ xs, QuietUnanswered y) ∧
      xs.length = 2 :=
  ⟨[.cycle 0b000#3 false 0 1, .cycle 0b010#3 false 0 7], rfl, rfl, rfl, by simp [QuietUnanswered]; decide, rfl⟩

end Sys2Proof.Tests
end

section
/-!
00_scope: the launch of a build by its payload size (R7).
-/

namespace Sys2Proof.Machine

/-- R7, R33: the size the spec specifies. -/
@[simp] theorem launch_payloadSize : launch Config.payloadSize = .next State.reset := if_pos rfl

/-- R7: the refusal names the size asked for. -/
theorem launch_of_ne_payloadSize {n : Nat} (h : n ≠ Config.payloadSize) : launch n = .refused (.payloadSize n) := if_neg h

/-- Settles O38: `launch` branches on the size alone, and `Config.payloadSize` is 9. -/
theorem onlyNineBytePayloadBuildsLaunch : Obligations.OnlyNineBytePayloadBuildsLaunch :=
  ⟨launch_payloadSize, fun _ h => launch_of_ne_payloadSize h⟩

end Sys2Proof.Machine
end

section
/-!
10_state: who writes the channels (R22), the values they may hold (R23), the fault mark (R31) and the reset values (R33).
-/

namespace Sys2Proof.Machine

open Sys2Proof.Safety

/-! ### The operations, inverted -/

/-- R120: RESET answers next exactly when FAULT is NONE, with the block reset. -/
theorem exec_reset_eq_next {b d : Bool} {s t : State} :
    exec (.reset b d) s = .next t ↔ s.faultMark = .none ∧ t = resetBlock s :=
  taken_eq_next

/-- R80: a DECODE that answers next is the whole transaction, of some payload and some aux1 value. -/
theorem exec_eq_decodeWith {i : Instr} {s t : State} (hi : isDecode i = true) (h : exec i s = .next t) :
    ∃ p a, t = decodeWith p a s := by
  obtain ⟨-, ⟨b, d, rfl, -⟩ | ⟨b, rfl, -⟩ | ⟨rfl, -⟩ | ⟨b, rfl, -⟩ | ⟨p, a, -, ht, -⟩⟩ := exec_cases h
  case inr.inr.inr.inr => exact ⟨p, a, ht⟩
  all_goals cases hi

/-! ### The channels an operation writes (R22) -/

/-- R22: what is neither DECODE nor RESET leaves every channel. -/
theorem exec_ch_of_not_writer {i : Instr} {s t : State} (hi : isDecode i = false) (hr : ∀ b d, i ≠ .reset b d)
    (h : exec i s = .next t) : t.ch = s.ch := by
  obtain ⟨-, ⟨b, d, rfl, -⟩ | ⟨b, -, rfl⟩ | ⟨-, rfl⟩ | ⟨b, -, rfl⟩ | ⟨p, a, hd, -, -⟩⟩ := exec_cases h
  · exact absurd rfl (hr b d)
  · rfl
  · rfl
  · rfl
  · simp [hi] at hd

/-- R22, R90: nothing but RESET writes CH[5]. -/
theorem exec_aux2_of_not_reset {i : Instr} {s t : State} (hr : ∀ b d, i ≠ .reset b d) (h : exec i s = .next t) :
    t.ch.aux2 = s.ch.aux2 := by
  cases hi : isDecode i with
  | false => rw [exec_ch_of_not_writer hi hr h]
  | true => obtain ⟨p, a, rfl⟩ := exec_eq_decodeWith hi h; rfl

/-- Settles O37: the operations that leave the channels, RESET, and the DECODE, whose EV_COMMIT holds the five values. -/
theorem onlyDecodeAndResetWriteChannels : Obligations.OnlyDecodeAndResetWriteChannels := by
  refine ⟨fun s => ⟨rfl, rfl, rfl, rfl, rfl, rfl⟩, fun i s t h =>
    ⟨fun hi hr => exec_ch_of_not_writer hi hr h, fun hr => exec_aux2_of_not_reset hr h, ?_, fun hi => ?_⟩⟩
  · rintro b d rfl
    obtain ⟨-, rfl⟩ := exec_reset_eq_next.mp h
    exact resetBlock_ch s
  · obtain ⟨p, a, rfl⟩ := exec_eq_decodeWith hi h
    exact ⟨p, throttle p, roll p, pitch p, yaw p, a, decodeWith_ch p a s, decodeWith_hist p a s⟩

/-! ### The values a channel may hold (R23) -/

theorem to16_throttle_inRange (p : Payload) : InRange (to16 (throttle p)) 0 1000 := by
  simpa only [InRange, to16_throttle_toInt] using throttleValue_range p.p0

theorem to16_axisOf_inRange (b : Byte) : InRange (to16 (axisOf b)) (-500) 500 := by
  simpa only [InRange, to16_axis_toInt] using axisValue_range b

/-- R89: aux1 is set to one of the two flip values or held. -/
theorem aux1Next_cases (p : Payload) (old : Int) :
    aux1Next p old = 500 ∨ aux1Next p old = -500 ∨ aux1Next p old = old := by
  rw [aux1Next_eq]
  split
  · exact .inl rfl
  · split
    · exact .inr (.inl rfl)
    · exact .inr (.inr rfl)

/-- R23: the register a DECODE leaves in CH[4] holds one of the three values if the register before did. -/
theorem to16_aux1Next_legal (p : Payload) {w : ChanWord} (h : w.toInt = -500 ∨ w.toInt = 0 ∨ w.toInt = 500) :
    (to16 (aux1Next p (signed w))).toInt = -500 ∨ (to16 (aux1Next p (signed w))).toInt = 0 ∨
      (to16 (aux1Next p (signed w))).toInt = 500 := by
  rcases aux1Next_cases p (signed w) with ha | ha | ha <;> rw [ha]
  · exact .inr (.inr (to16_toInt (by decide) (by decide)))
  · exact .inl (to16_toInt (by decide) (by decide))
  · rwa [to16_signed]

/-- R23, R33: the reset values are legal. -/
theorem channelsLegal_zero : ChannelsLegal Channels.zero := by
  constructor <;> simp [Channels.zero, InRange]

/-- R23: committing a payload keeps the channels legal. -/
theorem channelsLegal_committed {c : Channels} (h : ChannelsLegal c) (p : Payload) :
    ChannelsLegal (c.committed (throttle p) (roll p) (pitch p) (yaw p) (aux1Next p (signed c.aux1))) where
  thr := to16_throttle_inRange p
  rol := to16_axisOf_inRange (rolRaw p)
  pit := to16_axisOf_inRange (pitRaw p)
  yaw := to16_axisOf_inRange (yawRaw p)
  aux1 := to16_aux1Next_legal p h.aux1
  aux2 := h.aux2

/-- R23: each stage of a cycle-level DECODE keeps the channels legal; only the commit writes them. -/
theorem stageStep_channelsLegal {s t : State} (hs : ChannelsLegal s.ch) (h : stageStep s = .next t) :
    ChannelsLegal t.ch := by
  obtain ⟨rfl, -⟩ | ⟨-, rfl⟩ | ⟨-, rfl⟩ | ⟨p, -, -, rfl⟩ := stageStep_cases h
  · exact hs
  · exact hs
  · exact hs
  · exact channelsLegal_committed hs p

/-- R23: every step keeps the channels legal. -/
theorem step_channelsLegal {s t : State} (hs : ChannelsLegal s.ch) (h : step s = .next t) : ChannelsLegal t.ch := by
  have hp : ChannelsLegal (prepared s).ch := by rwa [prepared_ch]
  refine step_induct (P := fun u => ChannelsLegal u.ch) (hprep := hp) (hreset := channelsLegal_zero)
    (hfault := fun _ _ => hp) (hframe := fun p _ => ?_) (haccept := fun _ => hp) (hread := fun _ _ _ _ hu => hu)
    (hstage := fun _ _ _ hu hv => stageStep_channelsLegal hu hv) h
  rw [decodeFrame_ch]
  exact channelsLegal_committed hp p

/-- Settles O44: the channels are legal at launch, and every step keeps that, so they are legal after any run. -/
theorem reachableChannelsLegal : Obligations.ReachableChannelsLegal :=
  fun xs k t h => run_induct (P := fun s => ChannelsLegal s.ch) (fun _ _ => step_channelsLegal) k (launched xs) t
    channelsLegal_zero h

/-! ### The fault mark (R31) -/

/-- R31: an operation keeps FAULT, unless it is one of the two that raise their own code. -/
theorem exec_faultMark_cases {i : Instr} {s t : State} (h : exec i s = .next t) :
    t.faultMark = s.faultMark ∨ (i = .decodeUnbound ∧ t.faultMark = .decodeUnbound) ∨
      (∃ b, i = .reqWhileBusy b ∧ t.faultMark = .reqWhileBusy) := by
  obtain ⟨-, ⟨b, d, -, rfl⟩ | ⟨b, -, rfl⟩ | ⟨hi, rfl⟩ | ⟨b, hi, rfl⟩ | ⟨p, a, -, rfl, -⟩⟩ := exec_cases h
  · exact .inl rfl
  · exact .inl rfl
  · exact .inr (.inl ⟨hi, rfl⟩)
  · exact .inr (.inr ⟨b, hi, rfl⟩)
  · exact .inl rfl

/-- A clock cycle that changes FAULT is the operation its trigger selects and no more: neither accepting a DECODE nor the work
of one in progress touches FAULT (R123). -/
theorem exec_of_cycle_faultMark_ne {tr : Trigger} {ack : Bool} {rd : Bus} {n : Nat} {s t : State}
    (h : cycle tr ack rd n s = .next t) (hne : t.faultMark ≠ s.faultMark) :
    exec (decodeOp ⟨s.busy, tr, 0⟩) s = .next t := by
  simp only [cycle] at h
  split at h
  · cases h; exact absurd rfl hne
  · split at h
    · rename_i u hu
      obtain ⟨hs, -⟩ := exec_cases hu
      split at h
      · rename_i hu'
        exact absurd ((cycleWork_faultMark h).trans (hu'.trans hs.symm)) hne
      · rwa [h] at hu
    · cases h
    · cases h

/-- The same for a sample of either level. -/
theorem exec_of_respond_faultMark_ne {x : Stimulus} {s t : State} (h : respond x s = .next t)
    (hne : t.faultMark ≠ s.faultMark) : ∃ rd, exec (decodeOp ⟨s.busy, sampleTrigger x, rd⟩) s = .next t := by
  cases x with
  | transaction tr rd => exact ⟨rd, h⟩
  | cycle tr ack rd n => exact ⟨0, exec_of_cycle_faultMark_ne h hne⟩

/-- R65: the DECODE of a payload is none of the other operations. -/
theorem decodeInstr_ne {i : Instr} (hi : isDecode i = false) (p : Payload) : decodeInstr p ≠ i := by
  rintro rfl
  simp at hi

/-- R60, R122: the trigger of a DECODE_UNBOUND is an unbound request without `rst`. -/
theorem trigger_of_decodeOp_decodeUnbound {b : Bool} {t : Trigger} {rd : Bus} (h : decodeOp ⟨b, t, rd⟩ = .decodeUnbound) :
    t.getLsbD 2 = false ∧ t.getLsbD 0 = true ∧ t.getLsbD 1 = false := by
  rcases decodeOp_cases b t rd with ⟨-, hi⟩ | ⟨-, -, hi⟩ | ⟨-, -, -, hi⟩ | ⟨-, -, -, -, hi⟩ | ⟨-, h2, h0, h1, -⟩
  case inr.inr.inr.inr => exact ⟨h2, h0, h1⟩
  case inr.inr.inr.inl => exact absurd (hi.symm.trans h) (decodeInstr_ne rfl _)
  all_goals cases hi.symm.trans h

/-- R123: a REQ_WHILE_BUSY is a request without `rst` in a busy block. -/
theorem trigger_of_decodeOp_reqWhileBusy {b c : Bool} {t : Trigger} {rd : Bus}
    (h : decodeOp ⟨b, t, rd⟩ = .reqWhileBusy c) : t.getLsbD 2 = false ∧ t.getLsbD 0 = true ∧ b = true := by
  rcases decodeOp_cases b t rd with ⟨-, hi⟩ | ⟨-, -, hi⟩ | ⟨hb, h2, h0, -⟩ | ⟨-, -, -, -, hi⟩ | ⟨-, -, -, -, hi⟩
  case inr.inr.inl => exact ⟨h2, h0, hb⟩
  case inr.inr.inr.inl => exact absurd (hi.symm.trans h) (decodeInstr_ne rfl _)
  all_goals cases hi.symm.trans h

/-- R31: the trigger a step that changes FAULT has sampled. -/
theorem step_faultMark_ne {s t : State} (h : step s = .next t) (hne : t.faultMark ≠ s.faultMark) :
    (sampleTrigger (nextSample s)).getLsbD 2 = false ∧ (sampleTrigger (nextSample s)).getLsbD 0 = true ∧
    (((sampleTrigger (nextSample s)).getLsbD 1 = false ∧ t.faultMark = .decodeUnbound) ∨
      (s.busy = true ∧ t.faultMark = .reqWhileBusy)) := by
  obtain ⟨hf, -⟩ := step_eq_next.mp h
  rw [step_of_none hf] at h
  rw [← prepared_faultMark s] at hne
  obtain ⟨rd, hx⟩ := exec_of_respond_faultMark_ne h hne
  rcases exec_faultMark_cases hx with heq | ⟨hi, ht⟩ | ⟨b, hi, ht⟩
  · exact absurd heq hne
  · obtain ⟨h2, h0, h1⟩ := trigger_of_decodeOp_decodeUnbound hi
    exact ⟨h2, h0, .inl ⟨h1, ht⟩⟩
  · obtain ⟨h2, h0, hb⟩ := trigger_of_decodeOp_reqWhileBusy hi
    refine ⟨h2, h0, .inr ⟨?_, ht⟩⟩
    simpa using hb

/-- Settles O33: only the two raising operations change FAULT, a step changes it only by running one of them, and a faulted
state takes nothing. -/
theorem faultMarkIsSticky : Obligations.FaultMarkIsSticky :=
  ⟨rfl, fun _ _ _ h hne => (exec_faultMark_cases h).resolve_left hne, fun _ _ => step_faultMark_ne,
    fun _ h => ⟨step_of_fault h, fun i => exec_of_fault i h⟩⟩

/-! ### The reset values (R33) -/

/-- Settles O35: the values at launch are the reset state's fields, those after RESET the fields of `resetBlock`. -/
theorem resetStateValues : Obligations.ResetStateValues := by
  refine ⟨rfl, rfl, rfl, rfl, rfl, rfl, rfl, rfl, rfl, fun s t b d h => ?_⟩
  obtain ⟨-, rfl⟩ := exec_reset_eq_next.mp h
  exact ⟨resetBlock_ch s, rfl, resetBlock_faultMark s, resetBlock_hist s, rfl, rfl, rfl, rfl, rfl⟩

end Sys2Proof.Machine
end

section
/-!
30_encoding: the payload on the bus (R61, R62), the payload classes (R65), the ignored bits (R66), the bit-level datapath
forms (R64) and the trigger's rows (R60).
-/

namespace Sys2Proof.Machine

open Sys2Proof.Safety

/-! ### The payload on the bus (R61, R62) -/

/-- R42, R61: byte `i` is the eight bus bits from `8i` on. -/
theorem payloadByte_payloadOfBus (w : Bus) (i : Fin 9) : payloadByte (payloadOfBus w) i = w.extractLsb' (8 * i.val) 8 := by
  fin_cases i <;> rfl

/-- R42, R61: bit `j` of byte `i` is bus bit `8i + j`. -/
theorem getLsbD_payloadByte_payloadOfBus (w : Bus) (i : Fin 9) {j : Nat} (hj : j < 8) :
    (payloadByte (payloadOfBus w) i).getLsbD j = w.getLsbD (8 * i.val + j) := by
  rw [payloadByte_payloadOfBus, BitVec.getLsbD_extractLsb', decide_eq_true hj, Bool.true_and]

/-- R62: `FLIP_NIB` is the low half of byte 7's bus bits. -/
theorem flipNib_payloadOfBus (w : Bus) : flipNib (payloadOfBus w) = w.extractLsb' 56 4 := by
  ext k hk
  have hk8 : k < 8 := by omega
  simp only [flipNib, payloadOfBus, BitVec.getElem_extractLsb', BitVec.getLsbD_extractLsb', Nat.zero_add, hk8, decide_true,
    Bool.true_and]

/-- Settles O7: each byte and each field is the slice of the bus that `payloadOfBus` cuts out, and `busOfPayload` puts every
byte back in its place. -/
theorem payloadFieldsOnTheBus : Obligations.PayloadFieldsOnTheBus :=
  ⟨fun w i _ hj => getLsbD_payloadByte_payloadOfBus w i hj, fun w => ⟨rfl, rfl, rfl, rfl, rfl, flipNib_payloadOfBus w⟩,
    payloadOfBus_busOfPayload⟩

/-! ### The payload classes (R65) -/

/-- R65: the DECODE of a payload bears the name of a class exactly when the payload is of that class. -/
theorem decodeInstr_eq_iff (p : Payload) :
    (decodeInstr p = .decodeNoflip p ↔ classOf p = .noflip) ∧ (decodeInstr p = .decodeFlipHi p ↔ classOf p = .flipHi) ∧
    (decodeInstr p = .decodeFlipLo p ↔ classOf p = .flipLo) ∧
    (decodeInstr p = .decodeFlipDead p ↔ classOf p = .flipDead) := by
  cases h : classOf p <;> simp [decodeInstr, h]

theorem classOf_eq_noflip_iff (p : Payload) : classOf p = .noflip ↔ p.p7.toNat % 16 = 0 := by
  rcases classOf_cases p with ⟨hc, h⟩ | ⟨hc, h⟩ | ⟨hc, h⟩ | ⟨hc, h⟩ <;> simp [hc, h]

theorem classOf_eq_flipHi_iff (p : Payload) : classOf p = .flipHi ↔ p.p7.toNat % 16 ≠ 0 ∧ 0xF1 ≤ p.p3.toNat := by
  rcases classOf_cases p with ⟨hc, h⟩ | ⟨hc, h⟩ | ⟨hc, h⟩ | ⟨hc, h⟩ <;> simp [hc] <;> omega

theorem classOf_eq_flipLo_iff (p : Payload) : classOf p = .flipLo ↔ p.p7.toNat % 16 ≠ 0 ∧ p.p3.toNat ≤ 0x0E := by
  rcases classOf_cases p with ⟨hc, h⟩ | ⟨hc, h⟩ | ⟨hc, h⟩ | ⟨hc, h⟩ <;> simp [hc] <;> omega

theorem classOf_eq_flipDead_iff (p : Payload) :
    classOf p = .flipDead ↔ p.p7.toNat % 16 ≠ 0 ∧ 0x0F ≤ p.p3.toNat ∧ p.p3.toNat ≤ 0xF0 := by
  rcases classOf_cases p with ⟨hc, h⟩ | ⟨hc, h⟩ | ⟨hc, h⟩ | ⟨hc, h⟩ <;> simp [hc] <;> omega

/-- R89, R94: FLIP_HI commits +500. -/
theorem aux1Next_of_flipHi {p : Payload} (hf : p.p7.toNat % 16 ≠ 0) (h : 0xF1 ≤ p.p3.toNat) (old : Int) :
    aux1Next p old = 500 := by
  rw [aux1Next_eq, if_pos ⟨hf, h⟩]

/-- R89, R95: FLIP_LO commits -500. -/
theorem aux1Next_of_flipLo {p : Payload} (hf : p.p7.toNat % 16 ≠ 0) (h : p.p3.toNat ≤ 0x0E) (old : Int) :
    aux1Next p old = -500 := by
  rw [aux1Next_eq, if_neg (by omega), if_pos (by omega)]

/-- R89, R93, R96: without a flip, or in the dead band, aux1 is held. -/
theorem aux1Next_of_hold {p : Payload} (h : p.p7.toNat % 16 = 0 ∨ 0x0F ≤ p.p3.toNat ∧ p.p3.toNat ≤ 0xF0) (old : Int) :
    aux1Next p old = old := by
  rw [aux1Next_eq, if_neg (by omega), if_neg (by omega)]

/-- R89: what a DECODE commits to aux1 fits its register: 500, -500 or a value the register held. -/
theorem to16_aux1Next_toInt (p : Payload) (s : State) :
    (to16 (aux1Next p (aux1Held s))).toInt = aux1Next p (aux1Held s) := by
  rcases aux1Next_cases p (aux1Held s) with h | h | h <;> rw [h]
  · exact to16_toInt (by decide) (by decide)
  · exact to16_toInt (by decide) (by decide)
  · exact to16_toInt (signed_range _).1 (signed_range _).2

/-- The five events of a DECODE, with the analog values of R84 to R87 written out. -/
theorem frameEvents_eq (p : Payload) (a : Int) :
    frameEvents p a = [.read 9 p, .flushRx, .clearStatus,
      .commit (throttleValue p.p0) (axisValue p.p4) (axisValue p.p3) (axisValue p.p1) a, .fsClr] := by
  simp only [frameEvents, throttle, roll, pitch, yaw, throttleOf_eq, axisOf_eq, thrRaw, rolRaw, pitRaw, yawRaw]

/-- R80: the whole DECODE has the one common effect, whatever aux1 value its register can hold it commits. -/
theorem decodeEffect_decodeWith (p : Payload) {a : Int} (s : State) (ha : (to16 a).toInt = a) :
    DecodeEffect p a s (decodeWith p a s) where
  thr := to16_throttle_toInt p
  rol := to16_axis_toInt p.p4
  pit := to16_axis_toInt p.p3
  yaw := to16_axis_toInt p.p1
  aux1 := ha
  aux2 := rfl
  pb := rfl
  fault := rfl
  hist := by rw [decodeWith_hist, frameEvents_eq]

/-- R80, R89: the same for the aux1 value of R89. -/
theorem decodeEffect_decodeFrame (p : Payload) (s : State) :
    DecodeEffect p (aux1Next p (aux1Held s)) s (decodeFrame p s) :=
  decodeEffect_decodeWith p s (to16_aux1Next_toInt p s)

/-- R89: a DECODE that commits the value aux1 holds leaves the register. -/
theorem decodeFrame_aux1_of_hold {p : Payload} {s : State} (h : aux1Next p (aux1Held s) = aux1Held s) :
    (decodeFrame p s).ch.aux1 = s.ch.aux1 := by
  rw [decodeFrame_ch, committed_aux1, h, aux1Held, to16_signed]

/-- Settles O14: the class decides the name (`decodeInstr_eq_iff`), each class is its condition on bytes 3 and 7, and the
common effect is that of `decodeFrame`, whose aux1 value the class fixes. -/
theorem payloadClassesPartition : Obligations.PayloadClassesPartition := by
  intro p
  have hlt := byte_lt p.p3
  obtain ⟨hno, hhi, hlo, hdead⟩ := decodeInstr_eq_iff p
  refine ⟨hno.trans (classOf_eq_noflip_iff p), hhi.trans ((classOf_eq_flipHi_iff p).trans ?_),
    hlo.trans (classOf_eq_flipLo_iff p), hdead.trans (classOf_eq_flipDead_iff p), fun s hs => ?_⟩
  · omega
  have he := decodeEffect_decodeFrame p s
  exact ⟨decodeFrame p s, _, exec_decodeInstr p hs, he,
    fun hf => decodeFrame_aux1_of_hold (aux1Next_of_hold (.inl hf) _),
    fun hf h => he.aux1.trans (aux1Next_of_flipHi hf h _),
    fun hf h => he.aux1.trans (aux1Next_of_flipLo hf h _),
    fun _ h h' => decodeFrame_aux1_of_hold (aux1Next_of_hold (.inr ⟨h, h'⟩) _)⟩

/-! ### The ignored bits (R66) -/

/-- R88: `flip` reads the low nibble of P[7] alone. -/
theorem flip_congr {p q : Payload} (h7 : p.p7.extractLsb' 0 4 = q.p7.extractLsb' 0 4) : flip p = flip q := by
  rw [flip, flip, flipNib, flipNib, h7]

/-- R89: the aux1 value reads P[3] and the low nibble of P[7] alone. -/
theorem aux1Next_congr {p q : Payload} (h3 : p.p3 = q.p3) (h7 : p.p7.extractLsb' 0 4 = q.p7.extractLsb' 0 4) (old : Int) :
    aux1Next p old = aux1Next q old := by
  have hhi : auxHi p = auxHi q := by rw [auxHi, auxSel, pitRaw, h3]; rfl
  have hlo : auxLo p = auxLo q := by rw [auxLo, auxSel, pitRaw, h3]; rfl
  rw [aux1Next, aux1Next, flip_congr h7, hhi, hlo]

/-- R80: a whole DECODE reads its payload through the five values it commits, PB and EV_READ; with the same five values, two
payloads leave states equal but for those two. -/
theorem decodeWith_congr {p q : Payload} (ht : throttle p = throttle q) (hr : roll p = roll q) (hp : pitch p = pitch q)
    (hy : yaw p = yaw q) (a : Int) (s : State) :
    decodeWith q a s =
      { decodeWith p a s with pb := some q, hist := s.hist ++ .read 9 q :: (frameEvents p a).tail } := by
  have hh : s.hist ++ .read 9 q :: (frameEvents p a).tail = (decodeWith q a s).hist := by
    rw [decodeWith_hist, frameEvents, frameEvents, ht, hr, hp, hy, List.tail_cons]
  have hc : (decodeWith p a s).ch = (decodeWith q a s).ch := by
    rw [decodeWith_ch, decodeWith_ch, ht, hr, hp, hy]
  rw [hh]
  dsimp only
  rw [hc]
  rfl

/-- Settles O20: payloads that agree where a DECODE reads them commit the same five values, so the DECODEs differ in PB and
EV_READ alone. -/
theorem ignoredBitsHaveNoEffect : Obligations.IgnoredBitsHaveNoEffect := by
  intro p q s hs h0 h1 h3 h4 h7
  refine ⟨decodeFrame p s, (frameEvents p (aux1Next p (aux1Held s))).tail, exec_decodeInstr p hs, decodeFrame_pb p s,
    decodeFrame_hist p s, ?_⟩
  rw [exec_decodeInstr q hs, decodeFrame, decodeFrame, ← aux1Next_congr h3 h7]
  exact congrArg _ (decodeWith_congr (congrArg throttleOf h0) (congrArg axisOf h4) (congrArg axisOf h3)
    (congrArg axisOf h1) _ s)

/-! ### The bit-level datapath forms (R64) -/

/-- A byte's top bit inverted and read as a signed bit, weighed 128, before its low seven bits: 128 less than the byte. -/
theorem toInt_not_msb_append_low (b : Byte) :
    (~~~(b.extractLsb' 7 1) ++ b.extractLsb' 0 7 : BitVec (1 + 7)).toInt = (b.toNat : Int) - 128 := by
  have hnot : ∀ y : BitVec 1, (~~~y).toInt = (y.toNat : Int) - 1 := by decide
  have hlt := byte_lt b
  have hmsb : (b.extractLsb' 7 1).toNat = b.toNat / 128 := by
    rw [BitVec.extractLsb'_toNat, Nat.shiftRight_eq_div_pow]; omega
  have hlow : (b.extractLsb' 0 7).toNat = b.toNat % 128 := BitVec.extractLsb'_toNat 0 7 b
  rw [BitVec.toInt_append, if_neg (by decide), hnot, hmsb, hlow]
  omega

/-- R64: inverting bit 9 of `{b, 2'b00}` and reading it as signed is the bias of -512. -/
theorem axisRawWord_toInt (b : Byte) : (axisRawWord b).toInt = axisRaw b := by
  rw [axisRawWord, BitVec.toInt_signExtend_of_le (by decide), BitVec.toInt_append_zero, toInt_not_msb_append_low, axisRaw_eq]
  omega

/-- R64: `{6'b0, b, 2'b00}` is the shifted byte, which needs no sign bit. -/
theorem shiftedWord_toInt (b : Byte) : (shiftedWord b).toInt = thrShifted b := by
  rw [shiftedWord, BitVec.toInt_append_zero, BitVec.toInt_zero_append, if_neg (by decide), thrShifted_eq]
  rfl

/-- A 16-bit word is the encoding of the integer it holds. -/
theorem eq_to16_of_toInt {w : ChanWord} {v : Int} (h : w.toInt = v) : w = to16 v := by
  rw [← h]; exact (to16_signed w).symm

/-- R64: the throttle map, by whether its clamp acts. -/
theorem throttleOf_eq_ite (b : Byte) : throttleOf b = if 0xFB ≤ b.toNat then 1000 else thrShifted b := by
  rw [throttleOf_eq, throttleValue, thrShifted_eq]
  split <;> omega

/-- R64: the axis map, by which of its clamps acts. -/
theorem axisOf_eq_ite (b : Byte) :
    axisOf b = if b.toNat ≤ 0x02 then -500 else if 0xFE ≤ b.toNat then 500 else axisRaw b := by
  rw [axisOf_eq, axisValue, axisRaw_eq]
  split
  · omega
  · split <;> omega

/-- R64: the throttle's bit-level form. -/
theorem throttleWord_eq (b : Byte) : throttleWord b = to16 (throttleOf b) := by
  have hle : 0xFB#8 ≤ b ↔ 0xFB ≤ b.toNat := BitVec.le_def
  simp only [throttleWord, throttleOf_eq_ite, hle]
  split
  · rfl
  · exact eq_to16_of_toInt (shiftedWord_toInt b)

/-- R64: the axes' bit-level form. -/
theorem axisWord_eq (b : Byte) : axisWord b = to16 (axisOf b) := by
  have hlo : b ≤ 0x02#8 ↔ b.toNat ≤ 0x02 := BitVec.le_def
  have hhi : 0xFE#8 ≤ b ↔ 0xFE ≤ b.toNat := BitVec.le_def
  simp only [axisWord, axisOf_eq_ite, hlo, hhi]
  split
  · rfl
  · split
    · rfl
    · exact eq_to16_of_toInt (axisRawWord_toInt b)

/-- R64: a nibble is nonzero when one of its bits is 1. -/
theorem flipBits_eq : ∀ n : BitVec 4, flipBits n = (n != 0#4) := by decide

theorem toNat_highNibble (b : Byte) : (b.extractLsb' 4 4).toNat = b.toNat / 16 := by
  have hlt := byte_lt b
  rw [BitVec.extractLsb'_toNat, Nat.shiftRight_eq_div_pow]
  omega

theorem toNat_lowNibble (b : Byte) : (b.extractLsb' 0 4).toNat = b.toNat % 16 :=
  BitVec.extractLsb'_toNat 0 4 b

/-- R64: above 0xF0 the high nibble is 0xF and the low one not 0. -/
theorem auxHiBits_iff (b : Byte) : auxHiBits b = true ↔ b.toNat > 0xF0 := by
  have hlt := byte_lt b
  simp only [auxHiBits, Bool.and_eq_true, beq_iff_eq, bne_iff_ne, ne_eq, ← BitVec.toNat_inj, toNat_highNibble,
    toNat_lowNibble, BitVec.toNat_ofNat]
  omega

/-- R64: below 0x0F the high nibble is 0 and the low one not 0xF. -/
theorem auxLoBits_iff (b : Byte) : auxLoBits b = true ↔ b.toNat < 0x0F := by
  simp only [auxLoBits, Bool.and_eq_true, beq_iff_eq, bne_iff_ne, ne_eq, ← BitVec.toNat_inj, toNat_highNibble,
    toNat_lowNibble, BitVec.toNat_ofNat]
  omega

/-- R64: the throttle clamp acts from 0xFB on. -/
theorem throttleOf_ne_thrShifted_iff (b : Byte) : throttleOf b ≠ thrShifted b ↔ 0xFB ≤ b.toNat := by
  rw [throttleOf_eq_ite, thrShifted_eq]
  split <;> omega

/-- R64: the axis clamps act on the two ends of the byte's range. -/
theorem axisOf_ne_axisRaw_iff (b : Byte) : axisOf b ≠ axisRaw b ↔ b.toNat ≤ 0x02 ∨ 0xFE ≤ b.toNat := by
  rw [axisOf_eq, axisValue, axisRaw_eq]
  omega

/-- Settles O26: a word equals an encoding because it holds the same integer, and the flag forms because they compare the
same values. -/
theorem datapathFormsAgree : Obligations.DatapathFormsAgree := by
  refine ⟨fun b => ⟨eq_to16_of_toInt (axisRawWord_toInt b), throttleWord_eq b, axisWord_eq b, throttleOf_ne_thrShifted_iff b,
    ?_, axisOf_ne_axisRaw_iff b⟩, fun p => ⟨(flipBits_eq (flipNib p)).symm, ?_, ?_⟩⟩
  · rw [thrShifted_eq]; omega
  · exact Bool.eq_iff_iff.mpr ((auxHi_iff p).trans (auxHiBits_iff p.p3).symm)
  · exact Bool.eq_iff_iff.mpr ((auxLo_iff p).trans (auxLoBits_iff p.p3).symm)

/-! ### The trigger's rows (R60) -/

/-- R60: a step with a transaction-level sample runs the operation it selects on the prepared state. -/
theorem step_transaction {s : State} {t : Trigger} {rd : Bus} {rest : List Stimulus} (hf : s.faultMark = .none)
    (hx : s.script = .transaction t rd :: rest) : step s = exec (decodeOp ⟨s.busy, t, rd⟩) (prepared s) := by
  have hb : (prepared s).busy = s.busy := by rw [State.busy, State.busy, prepared_phase]
  rw [step_of_none hf, nextSample_cons hx, ← hb]
  rfl

theorem tuple_prepared (s : State) : tuple (prepared s) = tuple s := by
  simp only [tuple, prepared_ch, prepared_pb, prepared_faultMark, prepared_hist]

/-- Settles O1: the step runs `decodeOp` of a block that is not busy, which has one lemma per row, on the prepared state. -/
theorem stepPerformsTheFirstMatchingRow : Obligations.StepPerformsTheFirstMatchingRow := by
  intro s t rd rest hf hi hx
  have hstep := step_transaction hf hx
  rw [(busy_eq_false s).mpr hi] at hstep
  refine ⟨prepared s, tuple_prepared s, (prepared_phase s).trans hi, fun h2 => ?_, fun h2 h0 => ?_, fun h2 h1 h0 => ?_,
    fun h2 h1 h0 => ?_⟩
  · rw [hstep, decodeOp_rst h2]
  · rw [hstep, decodeOp_noReq h2 h0]
  · rw [hstep, decodeOp_bound h2 h0 h1]
  · rw [hstep, decodeOp_unbound h2 h0 h1]

end Sys2Proof.Machine
end

section
/-!
40_frame_decode: the whole DECODE (R80), its four classes (R93 to R96), the value of each channel (R84 to R90), the laws of
repeating and overwriting (R100 to R103), the arithmetic (R97 to R99), and the read that is never answered (R81).
-/

namespace Sys2Proof.Machine

open Sys2Proof.Safety

/-! ### The whole DECODE and what it commits to aux1 (R80, R89, R90) -/

/-- R89: the aux1 value of a DECODE, over the register it may hold. -/
theorem aux1Next_held_eq (p : Payload) (s : State) :
    aux1Next p (aux1Held s) =
      if p.p7.toNat % 16 ≠ 0 ∧ p.p3.toNat > 0xF0 then 500
      else if p.p7.toNat % 16 ≠ 0 ∧ p.p3.toNat < 0x0F then -500 else s.ch.aux1.toInt :=
  aux1Next_eq p (aux1Held s)

/-- Settles O9: a DECODE is `decodeFrame`, whose effect is R80's with the aux1 value of R89. -/
theorem decodeTransactionResult : Obligations.DecodeTransactionResult := by
  intro p s hs
  refine ⟨decodeFrame p s, exec_decodeInstr p hs, ?_⟩
  rw [← aux1Next_held_eq]
  exact decodeEffect_decodeFrame p s

/-- Settles O18: `aux1Next` has one lemma per row of R89, and a held value leaves the register. -/
theorem aux1Rule : Obligations.Aux1Rule := by
  intro p s hs
  have he := decodeEffect_decodeFrame p s
  exact ⟨decodeFrame p s, exec_decodeInstr p hs, fun hf h => he.aux1.trans (aux1Next_of_flipHi hf h _),
    fun hf h => he.aux1.trans (aux1Next_of_flipLo hf (Nat.le_of_lt_succ h) _),
    fun h => decodeFrame_aux1_of_hold (aux1Next_of_hold h _)⟩

/-- Settles O19: a commit keeps CH[5], and the legal channels that every run keeps (`reachableChannelsLegal`) have 0
there. -/
theorem aux2NeverWrittenByDecode : Obligations.Aux2NeverWrittenByDecode :=
  ⟨fun p s hs => ⟨decodeFrame p s, exec_decodeInstr p hs, (decodeEffect_decodeFrame p s).aux2⟩,
    fun xs k t h => BitVec.eq_of_toInt_eq (reachableChannelsLegal xs k t h).aux2⟩

/-! ### The flip event (R88) -/

/-- R88, R66: no analog channel reads P[7]; two DECODEs of payloads that differ there alone differ in aux1, PB and HIST. -/
theorem decodeWith_p7 (p : Payload) (b : Byte) (a a' : Int) (s : State) :
    decodeWith { p with p7 := b } a' s =
      { decodeWith p a s with
        ch := { (decodeWith p a s).ch with aux1 := (decodeWith { p with p7 := b } a' s).ch.aux1 },
        pb := (decodeWith { p with p7 := b } a' s).pb, hist := (decodeWith { p with p7 := b } a' s).hist } := rfl

/-- R88: the high nibble of P[7] reaches no channel. -/
theorem decodeFrame_ch_p7 {p : Payload} {b : Byte} (h : b.toNat % 16 = p.p7.toNat % 16) (s : State) :
    (decodeFrame { p with p7 := b } s).ch = (decodeFrame p s).ch := by
  have hlow : b.extractLsb' 0 4 = p.p7.extractLsb' 0 4 :=
    BitVec.eq_of_toNat_eq (by rw [toNat_lowNibble, toNat_lowNibble, h])
  have ha : aux1Next { p with p7 := b } (aux1Held s) = aux1Next p (aux1Held s) :=
    aux1Next_congr (p := { p with p7 := b }) (q := p) rfl hlow _
  rw [decodeFrame_ch, decodeFrame_ch, ha]
  rfl

/-- Settles O17: `flip` tests the low nibble (`flip_iff`), and P[7] reaches the state through aux1, PB and HIST alone. -/
theorem flipDetection : Obligations.FlipDetection :=
  ⟨flip_iff, fun p b s hs => ⟨decodeFrame p s, decodeFrame { p with p7 := b } s, exec_decodeInstr p hs,
    exec_decodeInstr _ hs, decodeWith_p7 p b _ _ s, fun h => decodeFrame_ch_p7 h s⟩⟩

/-! ### Decoding again, and decoding over other channels (R100 to R102) -/

/-- R89, R100: applying the aux1 rule to its own result changes nothing. -/
theorem aux1Next_idem (p : Payload) (old : Int) : aux1Next p (aux1Next p old) = aux1Next p old := by
  simp only [aux1Next_eq]
  split
  · rfl
  · split <;> rfl

/-- R89: aux1 holds, after a DECODE, the value the DECODE committed. -/
theorem aux1Held_decodeFrame (p : Payload) (s : State) : aux1Held (decodeFrame p s) = aux1Next p (aux1Held s) :=
  (decodeEffect_decodeFrame p s).aux1

/-- R100: `D(D(CH, P), P) = D(CH, P)`. -/
theorem decodeFrame_ch_idem (p : Payload) (s : State) : (decodeFrame p (decodeFrame p s)).ch = (decodeFrame p s).ch := by
  rw [decodeFrame_ch, aux1Held_decodeFrame, aux1Next_idem, decodeFrame_ch]
  rfl

/-- R100, R101: the analog channels a DECODE leaves are the same from every state. -/
theorem decodeFrame_analog (p : Payload) (s s' : State) :
    (decodeFrame p s').ch.thr = (decodeFrame p s).ch.thr ∧ (decodeFrame p s').ch.rol = (decodeFrame p s).ch.rol ∧
    (decodeFrame p s').ch.pit = (decodeFrame p s).ch.pit ∧ (decodeFrame p s').ch.yaw = (decodeFrame p s).ch.yaw := by
  simp only [decodeFrame_ch, committed_thr, committed_rol, committed_pit, committed_yaw, and_self]

/-- R94, R95, R100: in the two setting classes the aux1 value depends on the payload alone. -/
theorem aux1Next_of_setting {p : Payload} (h : classOf p = .flipHi ∨ classOf p = .flipLo) (old old' : Int) :
    aux1Next p old = aux1Next p old' := by
  rw [classOf_eq_flipHi_iff, classOf_eq_flipLo_iff] at h
  obtain ⟨hf, h⟩ | ⟨hf, h⟩ := h
  · rw [aux1Next_of_flipHi hf h, aux1Next_of_flipHi hf h]
  · rw [aux1Next_of_flipLo hf h, aux1Next_of_flipLo hf h]

/-- R93, R96: in the two holding classes aux1 is kept. -/
theorem aux1Next_of_holding {p : Payload} (h : classOf p = .noflip ∨ classOf p = .flipDead) (old : Int) :
    aux1Next p old = old := by
  rw [classOf_eq_noflip_iff, classOf_eq_flipDead_iff] at h
  exact aux1Next_of_hold (h.imp_right And.right) old

/-- R100: a DECODE records the commit of the values its channels hold afterwards. -/
theorem decodeFrame_hist_channels (p : Payload) (s : State) :
    (decodeFrame p s).hist = s.hist ++ [.read 9 p, .flushRx, .clearStatus,
      .commit (decodeFrame p s).ch.thr.toInt (decodeFrame p s).ch.rol.toInt (decodeFrame p s).ch.pit.toInt
        (decodeFrame p s).ch.yaw.toInt (decodeFrame p s).ch.aux1.toInt, .fsClr] := by
  have he := decodeEffect_decodeFrame p s
  rw [he.hist, he.thr, he.rol, he.pit, he.yaw, he.aux1]

/-- Settles O21: the aux1 rule is idempotent, the analog values read the payload alone, and the second DECODE commits the
values its channels hold, which are the first one's. -/
theorem decodeIsIdempotentOnChannels : Obligations.DecodeIsIdempotentOnChannels := by
  intro p s s' hs hs'
  obtain ⟨hthr, hrol, hpit, hyaw⟩ := decodeFrame_analog p s s'
  refine ⟨decodeFrame p s, decodeFrame p (decodeFrame p s), decodeFrame p s', exec_decodeInstr p hs,
    exec_decodeInstr p ((decodeFrame_faultMark p s).trans hs), exec_decodeInstr p hs', decodeFrame_ch_idem p s,
    hthr, hrol, hpit, hyaw, fun h => ?_, fun h => decodeFrame_aux1_of_hold (aux1Next_of_holding h _),
    (decodeEffect_decodeFrame p s).aux2, ?_⟩
  · rw [decodeFrame_ch, decodeFrame_ch, committed_aux1, committed_aux1, aux1Next_of_setting h]
  · rw [decodeFrame_hist_channels, decodeFrame_ch_idem]

/-- Settles O22: the analog registers of `decodeFrame` do not mention the channels before. -/
theorem decodeOverwritesAnalogChannels : Obligations.DecodeOverwritesAnalogChannels := by
  intro p s c hs
  have he := decodeEffect_decodeFrame p s
  obtain ⟨hthr, hrol, hpit, hyaw⟩ := decodeFrame_analog p s { s with ch := c }
  exact ⟨decodeFrame p s, decodeFrame p { s with ch := c }, exec_decodeInstr p hs, exec_decodeInstr p hs,
    hthr, hrol, hpit, hyaw, he.thr, he.rol, he.pit, he.yaw⟩

/-! ### The pitch in each class (R94 to R96) -/

/-- R94: the axis range above the high threshold. -/
theorem axisValue_above_auxHi {b : Byte} (h : 0xF1 ≤ b.toNat) : 452 ≤ axisValue b ∧ axisValue b ≤ 500 := by
  unfold axisValue; omega

/-- R95: the axis range below the low threshold. -/
theorem axisValue_below_auxLo {b : Byte} (h : b.toNat ≤ 0x0E) : -500 ≤ axisValue b ∧ axisValue b ≤ -456 := by
  unfold axisValue; omega

/-- R96: the axis range in the dead zone. -/
theorem axisValue_in_deadZone {b : Byte} (h : 0x0F ≤ b.toNat) (h' : b.toNat ≤ 0xF0) :
    -452 ≤ axisValue b ∧ axisValue b ≤ 448 := by
  unfold axisValue; omega

/-- R85 to R87: an axis is at its minimum up to 0x03. -/
theorem axisValue_of_le {b : Byte} (h : b.toNat ≤ 0x03) : axisValue b = -500 := by
  unfold axisValue; omega

/-- R85 to R87: an axis is at its maximum from 0xFD on. -/
theorem axisValue_of_ge {b : Byte} (h : 0xFD ≤ b.toNat) : axisValue b = 500 := by
  unfold axisValue; omega

/-- Settles O23: pitch and aux1 are two fields of the one effect, and the setting classes bound byte 3, so the pitch. -/
theorem pitchAndSelectorShareByteThree : Obligations.PitchAndSelectorShareByteThree := by
  intro p s hs
  have he := decodeEffect_decodeFrame p s
  obtain ⟨-, hhi, hlo, -⟩ := decodeInstr_eq_iff p
  refine ⟨decodeFrame p s, exec_decodeInstr p hs, he.pit, he.aux1.trans (aux1Next_held_eq p s), fun hd => ?_, fun hd => ?_⟩
  · obtain ⟨hf, h⟩ := (classOf_eq_flipHi_iff p).mp (hhi.mp hd)
    exact ⟨he.aux1.trans (aux1Next_of_flipHi hf h _), he.pit ▸ axisValue_above_auxHi h⟩
  · obtain ⟨hf, h⟩ := (classOf_eq_flipLo_iff p).mp (hlo.mp hd)
    exact ⟨he.aux1.trans (aux1Next_of_flipLo hf h _), he.pit ▸ axisValue_below_auxLo h⟩

/-! ### The four DECODE operations (R93 to R96) -/

/-- R93, R96: a DECODE that holds aux1 leaves the register. -/
theorem decodeWith_aux1Held_aux1 (p : Payload) (s : State) : (decodeWith p (aux1Held s) s).ch.aux1 = s.ch.aux1 :=
  to16_signed s.ch.aux1

/-- R93, R96: the effect of a DECODE that holds aux1. -/
theorem decodeEffect_aux1Held (p : Payload) (s : State) :
    DecodeEffect p s.ch.aux1.toInt s (decodeWith p (aux1Held s) s) :=
  decodeEffect_decodeWith p s (congrArg BitVec.toInt (to16_signed s.ch.aux1))

/-- Settles O10: a zero low nibble is the class NOFLIP, whose DECODE commits the value aux1 holds. -/
theorem decodeNoflipResult : Obligations.DecodeNoflipResult := by
  intro p s hs hf
  obtain ⟨hno, -, -, -⟩ := decodeInstr_eq_iff p
  exact ⟨hno.mpr ((classOf_eq_noflip_iff p).mpr hf), _, exec_decodeNoflip p hs, decodeEffect_aux1Held p s,
    decodeWith_aux1Held_aux1 p s⟩

/-- Settles O11: the class FLIP_HI, the effect with 500, and the axis range above the high threshold. -/
theorem decodeFlipHiResult : Obligations.DecodeFlipHiResult := by
  intro p s hs hf h
  obtain ⟨-, hhi, -, -⟩ := decodeInstr_eq_iff p
  have he := decodeEffect_decodeWith p (a := 500) s (to16_toInt (by decide) (by decide))
  obtain ⟨hmin, hmax⟩ := axisValue_above_auxHi h
  refine ⟨hhi.mpr ((classOf_eq_flipHi_iff p).mpr ⟨hf, h⟩), _, exec_decodeFlipHi p hs, he, rfl, ?_⟩
  rw [he.pit]
  exact ⟨hmin, hmax, fun hb => hb ▸ rfl, fun hb => hb ▸ rfl⟩

/-- Settles O12: the class FLIP_LO, the effect with -500, and the axis range below the low threshold. -/
theorem decodeFlipLoResult : Obligations.DecodeFlipLoResult := by
  intro p s hs hf h
  obtain ⟨-, -, hlo, -⟩ := decodeInstr_eq_iff p
  have hle : p.p3.toNat ≤ 0x0E := Nat.le_of_lt_succ h
  have he := decodeEffect_decodeWith p (a := -500) s (to16_toInt (by decide) (by decide))
  obtain ⟨hmin, hmax⟩ := axisValue_below_auxLo hle
  refine ⟨hlo.mpr ((classOf_eq_flipLo_iff p).mpr ⟨hf, hle⟩), _, exec_decodeFlipLo p hs, he, rfl, ?_⟩
  rw [he.pit]
  exact ⟨hmin, hmax, fun hb => hb ▸ rfl, fun hb => axisValue_of_le (Nat.le_succ_of_le hb)⟩

/-- Settles O13: the class FLIP_DEAD, the effect that holds aux1, and the axis range of the dead zone. -/
theorem decodeFlipDeadResult : Obligations.DecodeFlipDeadResult := by
  intro p s hs hf h h'
  obtain ⟨-, -, -, hdead⟩ := decodeInstr_eq_iff p
  have he := decodeEffect_aux1Held p s
  exact ⟨hdead.mpr ((classOf_eq_flipDead_iff p).mpr ⟨hf, h, h'⟩), _, exec_decodeFlipDead p hs, he,
    decodeWith_aux1Held_aux1 p s, he.pit ▸ axisValue_in_deadZone h h'⟩

/-! ### The analog channels (R84 to R87, R97) -/

/-- R84: the throttle value as the clamp of the rule. -/
theorem throttleValue_eq_clamp (b : Byte) : throttleValue b = clamp (4 * (b.toNat : Int)) 0 1000 := by
  rw [← throttleOf_eq, throttleOf, thrShifted_eq]; rfl

/-- R85 to R87: the axis value as the clamp of the rules. -/
theorem axisValue_eq_clamp (b : Byte) : axisValue b = clamp (4 * (b.toNat : Int) - 512) (-500) 500 := by
  rw [← axisOf_eq, axisOf, axisRaw_eq]; rfl

/-- R84: the throttle is at its maximum from 0xFA on, where the raw value is exactly 1000. -/
theorem throttleValue_of_ge {b : Byte} (h : 0xFA ≤ b.toNat) : throttleValue b = 1000 := by
  unfold throttleValue; omega

/-- A register that holds a map's value of a byte holds the word of that value at a fixed byte. -/
theorem register_eq_of_byte_eq {f : Byte → Int} {b c : Byte} {w v : ChanWord} (hw : w.toInt = f b) (hc : f c = v.toInt)
    (h : b = c) : w = v :=
  BitVec.eq_of_toInt_eq (hw.trans (h ▸ hc))

/-- Settles O15: CH[0] holds `throttleValue` of byte 0, the clamp of R84. -/
theorem throttleRule : Obligations.ThrottleRule := by
  intro p s hs
  have hthr := (decodeEffect_decodeFrame p s).thr
  refine ⟨decodeFrame p s, exec_decodeInstr p hs, hthr.trans (throttleValue_eq_clamp p.p0),
    register_eq_of_byte_eq hthr (by decide), register_eq_of_byte_eq hthr (by decide), fun hb => ?_, fun hb => ?_⟩
  · rw [hthr, hb]; rfl
  · exact hthr.trans (throttleValue_of_ge (Nat.le_of_succ_le hb))

/-- R85 to R87: each axis register holds the axis value of its byte. -/
theorem axisRegister_toInt {p : Payload} {a : Int} {s t : State} (he : DecodeEffect p a s t) {b : Byte} {w : ChanWord}
    (h : (b, w) = (p.p4, t.ch.rol) ∨ (b, w) = (p.p3, t.ch.pit) ∨ (b, w) = (p.p1, t.ch.yaw)) : w.toInt = axisValue b := by
  obtain h | h | h := h <;> cases h
  · exact he.rol
  · exact he.pit
  · exact he.yaw

/-- Settles O16: what holds of the axis value of a byte holds of all three registers. -/
theorem rollPitchYawRules : Obligations.RollPitchYawRules := by
  intro p s hs
  refine ⟨decodeFrame p s, exec_decodeInstr p hs, fun b w hbw => ?_⟩
  have hw := axisRegister_toInt (decodeEffect_decodeFrame p s) hbw
  refine ⟨hw.trans (axisValue_eq_clamp b), fun hb => hw.trans (axisValue_of_le hb), fun hb => ?_,
    register_eq_of_byte_eq hw (by decide), register_eq_of_byte_eq hw (by decide), register_eq_of_byte_eq hw (by decide),
    register_eq_of_byte_eq hw (by decide), fun hb => hw.trans (axisValue_of_ge hb)⟩
  rw [hw, hb]; rfl

/-- R97: 0x80 is the only byte at the centre of an axis. -/
theorem axisValue_eq_zero_iff (b : Byte) : axisValue b = 0 ↔ b = 0x80#8 := by
  rw [← BitVec.toNat_inj, axisValue]
  change _ ↔ b.toNat = 128
  omega

/-- Settles O25: the map's fixed values, and in a DECODE the register that holds the axis value of its byte. -/
theorem axisCentringIsAsymmetric : Obligations.AxisCentringIsAsymmetric := by
  refine ⟨by decide, by decide, by decide, by decide, fun p s hs => ⟨decodeFrame p s, exec_decodeInstr p hs, fun b w hbw => ?_⟩⟩
  have hw := axisRegister_toInt (decodeEffect_decodeFrame p s) hbw
  rw [hw]
  exact ⟨axisValue_eq_zero_iff b, fun hb => hb ▸ rfl⟩

/-! ### Widths and monotonicity (R98, R99) -/

/-- R98: what an analog channel or aux1 is given lies in the widest of the ranges and is a multiple of 4. -/
theorem storedValue_range {p : Payload} {old v : Int} (hold : old = -500 ∨ old = 0 ∨ old = 500)
    (hv : v = throttle p ∨ v = roll p ∨ v = pitch p ∨ v = yaw p ∨ v = aux1Next p old) :
    -500 ≤ v ∧ v ≤ 1000 ∧ (4 : Int) ∣ v := by
  have haxis (b : Byte) : -500 ≤ axisOf b ∧ axisOf b ≤ 1000 ∧ (4 : Int) ∣ axisOf b := by
    have h := axisValue_range b
    rw [axisOf_eq]; omega
  obtain rfl | rfl | rfl | rfl | rfl := hv
  · have h := throttleValue_range (thrRaw p)
    rw [throttle, throttleOf_eq]; omega
  · exact haxis (rolRaw p)
  · exact haxis (pitRaw p)
  · exact haxis (yawRaw p)
  · have h := aux1Next_cases p old
    omega

/-- Settles O27: the maps before the clamps are linear in a byte, and what is stored is far inside 16 bits. -/
theorem decodeArithmeticNeverOverflows : Obligations.DecodeArithmeticNeverOverflows := by
  refine ⟨fun b => ?_, fun p old v hold hv => ?_, by decide⟩
  · have hlt := byte_lt b
    rw [thrShifted_eq, axisRaw_eq]; omega
  · obtain ⟨hmin, hmax, hdvd⟩ := storedValue_range hold hv
    exact ⟨hmin, hmax, hdvd, to16_toInt (by omega) (by omega)⟩

/-- Settles O28: the maps are `throttleValue` and `axisValue`, minima and maxima of linear functions of the byte. -/
theorem analogChannelsAreMonotone : Obligations.AnalogChannelsAreMonotone := by
  simp only [Obligations.AnalogChannelsAreMonotone, throttleOf_eq, axisOf_eq]
  refine ⟨fun b c h => ?_, fun b c h hc => ?_, fun b c h hb hc => ?_, fun _ => throttleValue_of_ge, fun _ => axisValue_of_le,
    fun _ => axisValue_of_ge, fun p s hs => ?_⟩
  · unfold throttleValue axisValue; omega
  · unfold throttleValue; omega
  · unfold axisValue; omega
  · have he := decodeEffect_decodeFrame p s
    exact ⟨decodeFrame p s, exec_decodeInstr p hs, he.thr, he.rol, he.pit, he.yaw⟩

/-! ### The failsafe reset (R103) -/

/-- R49, R103: one EV_FS_CLR in the events of a DECODE. -/
theorem count_fsClr_frameEvents (p : Payload) (a : Int) : (frameEvents p a).count .fsClr = 1 := rfl

/-- R103: no other operation records EV_FS_CLR. -/
theorem exec_count_fsClr_of_not_decode {i : Instr} {s t : State} (hi : isDecode i = false) (h : exec i s = .next t) :
    t.hist.count .fsClr = s.hist.count .fsClr := by
  obtain ⟨-, ⟨b, d, -, rfl⟩ | ⟨b, -, rfl⟩ | ⟨-, rfl⟩ | ⟨b, -, rfl⟩ | ⟨p, a, hd, -, -⟩⟩ := exec_cases h
  · rw [resetBlock_hist, List.count_append]; rfl
  · rfl
  · rfl
  · rfl
  · simp [hi] at hd

/-- Settles O24: a DECODE appends its five events, of which one is EV_FS_CLR. -/
theorem everyDecodeResetsFailsafeOnce : Obligations.EveryDecodeResetsFailsafeOnce := by
  refine ⟨fun p s hs => ⟨decodeFrame p s, exec_decodeInstr p hs, ?_⟩, fun _ _ _ => exec_count_fsClr_of_not_decode⟩
  rw [decodeFrame_hist, List.count_append, count_fsClr_frameEvents]

/-! ### A read that is not answered (R81) -/

theorem prepared_script {s : State} {x : Stimulus} {xs : List Stimulus} (h : s.script = x :: xs) :
    (prepared s).script = xs := by
  rw [prepared, lowerPulses_script, takeSample_cons h]

/-- R81: without an answer a DECODE that waits for its read does no work. -/
theorem cycleWork_unanswered {rd : Bus} {n : Nat} {s : State} (h : s.phase = .busy .read) :
    cycleWork false rd n s = .next s := by
  simp [cycleWork, answerRead, advance_read n s h]

/-- R81, R121: a quiet cycle without an answer takes its sample and ends the pulses, and no more. -/
theorem step_quietUnanswered {s : State} {x : Stimulus} {xs : List Stimulus} (hf : s.faultMark = .none)
    (hp : s.phase = .busy .read) (hx : s.script = x :: xs) (hq : QuietUnanswered x) : step s = .next (prepared s) := by
  rw [step_of_none hf, nextSample_cons hx]
  cases x with
  | transaction t rd => exact hq.elim
  | cycle t ack rd n =>
    obtain ⟨h2, h0, rfl⟩ := hq
    calc cycle t false rd n (prepared s)
        = cycleWork false rd n (prepared s) := cycle_quiet false rd n ((prepared_faultMark s).trans hf) h2 h0
      _ = .next (prepared s) := cycleWork_unanswered ((prepared_phase s).trans hp)

/-- A run whose first step answers next goes on from there. -/
theorem core_run_succ {s t : State} (h : step s = .next t) (k : Nat) : core.run (k + 1) s = core.run k t := by
  have h' : core.step s = .next t := h
  simp only [Host.Core.run, h']

/-- R81: any number of quiet cycles without an answer leaves the block waiting, its tuple as it was. -/
theorem run_quietUnanswered {xs rest : List Stimulus} {s : State} (hf : s.faultMark = .none) (hp : s.phase = .busy .read)
    (hx : s.script = xs ++ rest) (hq : ∀ y ∈ xs, QuietUnanswered y) :
    ∃ t, core.run xs.length s = .next t ∧ t.phase = .busy .read ∧ tuple t = tuple s := by
  induction xs generalizing s with
  | nil => exact ⟨s, rfl, hp, rfl⟩
  | cons y ys ih =>
    obtain ⟨hy, hys⟩ := List.forall_mem_cons.mp hq
    obtain ⟨t, hrun, ht, htup⟩ := ih ((prepared_faultMark s).trans hf) ((prepared_phase s).trans hp) (prepared_script hx) hys
    exact ⟨t, (core_run_succ (step_quietUnanswered hf hp hx hy) _).trans hrun, ht, htup.trans (tuple_prepared s)⟩

/-- Settles O50: induction over the cycles (`run_quietUnanswered`); a block that waits for its read is not IDLE. -/
theorem unansweredReadStaysBusy : Obligations.UnansweredReadStaysBusy := by
  intro s xs rest hf hp hx hq
  obtain ⟨t, hrun, ht, htup⟩ := run_quietUnanswered hf hp hx hq
  refine ⟨t, hrun, ht, (rdReq_eq_true t).mpr ht, htup, fun hfin => ?_⟩
  cases ht.symm.trans hfin.2

end Sys2Proof.Machine
end

section
/-!
41_control_ops: RESET (R120), IDLE (R121) and the two operations that raise a fault, DECODE_UNBOUND (R122) and REQ_WHILE_BUSY
(R123).
-/

namespace Sys2Proof.Machine

/-! ### The four meanings in a state with FAULT = NONE -/

theorem exec_reset {s : State} (b d : Bool) (h : s.faultMark = .none) : exec (.reset b d) s = .next (resetBlock s) :=
  taken_of_none h

theorem exec_idle {s : State} (b : Bool) (h : s.faultMark = .none) : exec (.idle b) s = .next s :=
  taken_of_none h

theorem exec_decodeUnbound {s : State} (h : s.faultMark = .none) :
    exec .decodeUnbound s = .next (raiseFault .decodeUnbound s) :=
  taken_of_none h

theorem exec_reqWhileBusy {s : State} (b : Bool) (h : s.faultMark = .none) :
    exec (.reqWhileBusy b) s = .next (raiseFault .reqWhileBusy s) :=
  taken_of_none h

/-! ### RESET and IDLE, and again (R120, R121) -/

/-- R120: a RESET of a block just reset adds its EV_RESET and no more. -/
theorem resetBlock_resetBlock (s : State) :
    resetBlock (resetBlock s) = { resetBlock s with hist := (resetBlock s).hist ++ [.reset] } := rfl

/-- Settles O29: RESET is `resetBlock`, which leaves FAULT at NONE, so a second one is taken too. -/
theorem resetResult : Obligations.ResetResult := by
  refine fun s b d => ⟨fun hf => ⟨exec_reset b d hf, fun t b' d' ht => ?_⟩, exec_of_fault (.reset b d)⟩
  obtain ⟨-, rfl⟩ := exec_reset_eq_next.mp ht
  rw [exec_reset b' d' ((resetBlock_faultMark s).trans hf), resetBlock_resetBlock]

/-- Settles O30: IDLE answers the state it was given, so a second IDLE finds that state too. -/
theorem idleChangesNothing : Obligations.IdleChangesNothing := by
  refine fun s b b' hf => ⟨exec_idle b hf, fun t ht => ?_⟩
  cases (exec_idle b hf).symm.trans ht
  exact exec_idle b' hf

/-! ### The operations that raise a fault (R122, R123) -/

/-- R142: from a state in which a fault has been raised neither a step nor an operation is taken. -/
theorem nothing_taken_of_raiseFault {c : FaultCode} (hc : c ≠ .none) (s : State) :
    step (raiseFault c s) = .fault (.halted c) ∧ ∀ i, exec i (raiseFault c s) = .fault (.halted c) :=
  ⟨step_of_fault hc, fun i => exec_of_fault i hc⟩

/-- An operation that raises a fault is followed by nothing. -/
theorem nothing_taken_after_raise {i : Instr} {c : FaultCode} {s t : State} (hc : c ≠ .none)
    (hi : exec i s = .next (raiseFault c s)) (ht : exec i s = .next t) :
    step t = .fault (.halted c) ∧ ∀ j, exec j t = .fault (.halted c) := by
  cases hi.symm.trans ht
  exact nothing_taken_of_raiseFault hc s

/-- R123: a request without `rst` in a clock cycle of a busy block raises its fault, and the DECODE in progress does no work
in that cycle, whatever `bound` and the transport's answer are. -/
theorem cycle_busy_request {s : State} {t : Trigger} (ack : Bool) (rd : Bus) (n : Nat) (hf : s.faultMark = .none)
    (hb : s.busy = true) (h2 : t.getLsbD 2 = false) (h0 : t.getLsbD 0 = true) :
    cycle t ack rd n s = .next (raiseFault .reqWhileBusy s) := by
  simp only [cycle, hb, decodeOp_busy h2 h0, isDecode, exec_reqWhileBusy _ hf, raiseFault_faultMark, reduceCtorEq,
    Bool.false_eq_true, if_false]

/-- Settles O31: DECODE_UNBOUND is `raiseFault` and nothing else. -/
theorem decodeUnboundRaisesItsFault : Obligations.DecodeUnboundRaisesItsFault := by
  intro s hf
  have hraise := exec_decodeUnbound hf
  exact ⟨hraise, fun t => nothing_taken_after_raise (by decide) hraise⟩

/-- Settles O32: REQ_WHILE_BUSY is `raiseFault` and nothing else, and so is the clock cycle that selects it. -/
theorem reqWhileBusyRaisesItsFault : Obligations.ReqWhileBusyRaisesItsFault := by
  refine ⟨fun s b hf => ?_, fun s t ack rd n hf hb h2 _ h0 => cycle_busy_request ack rd n hf hb h2 h0⟩
  have hraise := exec_reqWhileBusy b hf
  exact ⟨hraise, fun t => nothing_taken_after_raise (by decide) hraise⟩

end Sys2Proof.Machine
end

section
/-!
60_exceptions: which of the simultaneous inputs a step obeys (R144), and what a step that raises a fault leaves as it was
(R142).
-/

namespace Sys2Proof.Machine

open Sys2Proof.Safety

/-! ### What a raised fault leaves (R142, R13) -/

/-- R13: an operation that changes FAULT is `raiseFault` and nothing else. -/
theorem exec_eq_raiseFault_of_faultMark_ne {i : Instr} {s t : State} (h : exec i s = .next t)
    (hne : t.faultMark ≠ s.faultMark) : ∃ c, t = raiseFault c s := by
  obtain ⟨-, ⟨b, d, -, rfl⟩ | ⟨b, -, rfl⟩ | ⟨-, ht⟩ | ⟨b, -, ht⟩ | ⟨p, a, -, rfl, -⟩⟩ := exec_cases h
  · exact absurd (resetBlock_faultMark s) hne
  · exact absurd rfl hne
  · exact ⟨_, ht⟩
  · exact ⟨_, ht⟩
  · exact absurd (decodeWith_faultMark p a s) hne

/-- R142: a step that leaves FAULT set, at either level, has raised it in the prepared state and done nothing else. -/
theorem step_eq_raiseFault {s t : State} (h : step s = .next t) (hne : t.faultMark ≠ .none) :
    ∃ c, t = raiseFault c (prepared s) := by
  obtain ⟨hf, hx⟩ := step_eq_next.mp h
  have hne' : t.faultMark ≠ (prepared s).faultMark := by rwa [prepared_faultMark, hf]
  obtain ⟨rd, hexec⟩ := exec_of_respond_faultMark_ne hx hne'
  exact exec_eq_raiseFault_of_faultMark_ne hexec hne'

/-- Settles O34: the step is `raiseFault` on the prepared state, which differs from the state before only in its pulses and in
the host's supply of samples. -/
theorem faultsArePrecise : Obligations.FaultsArePrecise := by
  intro s t h hne
  obtain ⟨c, rfl⟩ := step_eq_raiseFault h hne
  exact ⟨prepared_ch s, prepared_pb s, prepared_hist s, prepared_phase s⟩

/-! ### The precedence within one step (R144) -/

theorem prepared_busy (s : State) : (prepared s).busy = s.busy := by
  rw [State.busy, State.busy, prepared_phase]

/-- A clock cycle whose operation is no DECODE is that operation, and after it, unless a fault was raised, the work of the
DECODE in progress (R123). -/
theorem cycle_of_exec {t : Trigger} {ack : Bool} {rd : Bus} {n : Nat} {i : Instr} {s u : State}
    (hi : decodeOp ⟨s.busy, t, 0⟩ = i) (hd : isDecode i = false) (hx : exec i s = .next u) :
    cycle t ack rd n s = if u.faultMark = .none then cycleWork ack rd n u else .next u := by
  simp only [cycle, hi, hd, hx, Bool.false_eq_true, if_false]

/-- An operation that is selected without the bus, and that leaves the block faulted or IDLE, is the whole response to a sample
of either level: no DECODE is left to work on. -/
theorem respond_of_exec {x : Stimulus} {i : Instr} {s u : State}
    (hi : ∀ rd, decodeOp ⟨s.busy, sampleTrigger x, rd⟩ = i) (hd : isDecode i = false) (hx : exec i s = .next u)
    (hu : u.faultMark ≠ .none ∨ u.phase = .idle) : respond x s = .next u := by
  cases x with
  | transaction t rd => exact (congrArg (exec · s) (hi rd)).trans hx
  | cycle t ack rd n =>
    refine (cycle_of_exec (hi 0) hd hx).trans ?_
    rcases hu with hfault | hidle
    · exact if_neg hfault
    · rw [cycleWork_idle hidle, ite_self]

/-- R144: `rst` wins over every other input. -/
theorem respond_rst {x : Stimulus} {s : State} (hf : s.faultMark = .none) (h2 : (sampleTrigger x).getLsbD 2 = true) :
    respond x s = .next (resetBlock s) :=
  respond_of_exec (fun _ => decodeOp_rst h2) rfl (exec_reset _ _ hf) (.inr (resetBlock_phase s))

/-- R122, R144: an unbound request to a block that is not busy. -/
theorem respond_unbound {x : Stimulus} {s : State} (hf : s.faultMark = .none) (hb : s.busy = false)
    (h2 : (sampleTrigger x).getLsbD 2 = false) (h0 : (sampleTrigger x).getLsbD 0 = true)
    (h1 : (sampleTrigger x).getLsbD 1 = false) : respond x s = .next (raiseFault .decodeUnbound s) :=
  respond_of_exec (fun _ => hb ▸ decodeOp_unbound h2 h0 h1) rfl (exec_decodeUnbound hf) (.inl (by simp))

/-- R123, R144: a request to a busy block, whatever `bound` is (log entry 17). -/
theorem respond_busy_request {x : Stimulus} {s : State} (hf : s.faultMark = .none) (hb : s.busy = true)
    (h2 : (sampleTrigger x).getLsbD 2 = false) (h0 : (sampleTrigger x).getLsbD 0 = true) :
    respond x s = .next (raiseFault .reqWhileBusy s) :=
  respond_of_exec (fun _ => hb ▸ decodeOp_busy h2 h0) rfl (exec_reqWhileBusy _ hf) (.inl (by simp))

/-- R121: no request to a block that is not busy. -/
theorem respond_noReq_idle {x : Stimulus} {s : State} (hf : s.faultMark = .none) (hb : s.busy = false)
    (h2 : (sampleTrigger x).getLsbD 2 = false) (h0 : (sampleTrigger x).getLsbD 0 = false) : respond x s = .next s :=
  respond_of_exec (fun _ => decodeOp_noReq h2 h0) rfl (exec_idle _ hf) (.inr ((busy_eq_false s).mp hb))

/-- R60: the trigger of a DECODE. -/
theorem eq_decodeTrigger {t : Trigger} : t.getLsbD 2 = false → t.getLsbD 0 = true → t.getLsbD 1 = true → t = 0b011#3 := by
  revert t
  decide

/-- Settles O3: no step if faulted; else the step responds to its sample on the prepared state, by one lemma per rank of R144,
where the two levels differ one per level. -/
theorem precedenceOfSimultaneousInputs : Obligations.PrecedenceOfSimultaneousInputs := by
  refine fun s => ⟨step_of_fault, fun hf => ?_⟩
  rintro t rfl
  have hf' : (prepared s).faultMark = .none := (prepared_faultMark s).trans hf
  rw [step_of_none hf, ← prepared_busy s]
  refine ⟨respond_rst hf', fun h2 h0 h1 hb => respond_unbound hf' hb h2 h0 h1,
    fun h2 h0 hb => respond_busy_request hf' hb h2 h0, fun h2 h0 h1 hb => ⟨fun rd hx => ?_, fun ack rd n hx => ?_⟩,
    fun h2 h0 hb => respond_noReq_idle hf' hb h2 h0, fun h2 h0 hb => ⟨fun rd hx => ?_, fun ack rd n hx => ?_⟩⟩ <;>
    rw [hx]
  · exact congrArg (exec · (prepared s)) (hb ▸ decodeOp_bound h2 h0 h1)
  · rw [eq_decodeTrigger h2 h0 h1]
    exact cycle_accept ack rd n ((busy_eq_false _).mp hb)
  · exact (congrArg (exec · (prepared s)) (decodeOp_noReq h2 h0)).trans (exec_idle _ hf')
  · exact cycle_quiet ack rd n hf' h2 h0

end Sys2Proof.Machine
end

section
/-!
30_encoding: the word and the byte form of an operation decode back (R60, R69), and encoding keeps the sample (R67).
-/

namespace Sys2Proof.Machine

/-! ### The word of an operation (R60, R69) -/

/-- R60: the trigger vector is its three bits. -/
theorem trigOf_getLsbD : ∀ t : Trigger, trigOf (t.getLsbD 2) (t.getLsbD 1) (t.getLsbD 0) = t := by decide

/-- R60: each input is its bit of the trigger vector. -/
theorem getLsbD_trigOf : ∀ r b d : Bool,
    (trigOf r b d).getLsbD 2 = r ∧ (trigOf r b d).getLsbD 1 = b ∧ (trigOf r b d).getLsbD 0 = d := by decide

/-- R69: the word of a DECODE, whichever class its payload gives it. -/
theorem encode_decodeInstr (p : Payload) : encode (decodeInstr p) = ⟨false, trigOf false true true, busOfPayload p⟩ := by
  unfold decodeInstr; split <;> rfl

/-- R65: the decoder names a DECODE by the class of its payload. -/
theorem wellFormed_decodeInstr (p : Payload) : wellFormed (decodeInstr p) = true := by
  cases h : classOf p <;> simp [decodeInstr, wellFormed, h]

/-- R65: a well-formed DECODE is the one its payload selects. -/
theorem eq_decodeInstr {i : Instr} (hw : wellFormed i = true) (hi : isDecode i = true) : ∃ p, i = decodeInstr p := by
  cases i <;> simp only [isDecode, Bool.false_eq_true] at hi <;> simp only [wellFormed, beq_iff_eq] at hw
  all_goals exact ⟨_, by rw [decodeInstr, hw]⟩

/-- R60, R69: the word of a payload's DECODE decodes to it. -/
theorem decodeOp_encode_decodeInstr (p : Payload) : decodeOp (encode (decodeInstr p)) = decodeInstr p := by
  obtain ⟨h2, h1, h0⟩ := getLsbD_trigOf false true true
  rw [encode_decodeInstr, decodeOp_bound h2 h0 h1, payloadOfBus_busOfPayload]

/-- R60, R123: the word of an operation that is no DECODE decodes to it. -/
theorem decodeOp_encode_of_not_decode {i : Instr} (hi : isDecode i = false) : decodeOp (encode i) = i := by
  cases i with
  | reset b d => revert b d; decide
  | idle b => revert b; decide
  | decodeUnbound => decide
  | reqWhileBusy b => revert b; decide
  | _ => cases hi

/-- Settles O4: a well-formed DECODE is the one its payload selects, and the word keeps the payload; the other words are
finitely many. -/
theorem decodeEncodeAgree : Obligations.DecodeEncodeAgree := by
  intro i hw
  cases hi : isDecode i with
  | false => exact decodeOp_encode_of_not_decode hi
  | true =>
    obtain ⟨p, rfl⟩ := eq_decodeInstr hw hi
    exact decodeOp_encode_decodeInstr p

/-! ### Encoding what a sample decodes to (R67) -/

/-- Settles O5: one case per row of R60; a row fixes the trigger bits that are not fields of its operation. -/
theorem encodeDecodeKeepsTheSample : Obligations.EncodeDecodeKeepsTheSample := by
  rintro ⟨b, t, rd⟩
  have ht := trigOf_getLsbD t
  rcases decodeOp_cases b t rd with ⟨h2, hi⟩ | ⟨h2, h0, hi⟩ | ⟨hb, h2, h0, hi⟩ | ⟨hb, h2, h0, h1, hi⟩ |
    ⟨hb, h2, h0, h1, hi⟩ <;> rw [hi]
  · rw [h2] at ht
    exact ⟨rfl, ht, nofun, iff_of_false nofun fun ⟨_, h, _⟩ => nomatch h2.symm.trans h⟩
  · rw [h2, h0] at ht
    exact ⟨rfl, ht, nofun, iff_of_false nofun fun ⟨_, _, h⟩ => nomatch h0.symm.trans h⟩
  · rw [h2, h0] at ht
    exact ⟨rfl, ht, nofun, iff_of_true rfl ⟨hb, h2, h0⟩⟩
  · rw [h2, h0, h1] at ht
    rw [encode_decodeInstr]
    exact ⟨wellFormed_decodeInstr _, ht, fun _ => busOfPayload_payloadOfBus rd,
      iff_of_false nofun fun ⟨h, _⟩ => nomatch hb.symm.trans h⟩
  · rw [h2, h0, h1] at ht
    exact ⟨rfl, ht, nofun, iff_of_false nofun fun ⟨h, _⟩ => nomatch hb.symm.trans h⟩

/-! ### The byte form (log entry 2) -/

/-- The first byte holds the busy bit and the trigger below four zeros. -/
theorem opByte_fields (w : OpWord) :
    (opByte w).extractLsb' 4 4 = 0#4 ∧ (opByte w).getLsbD 3 = w.busy ∧ (opByte w).extractLsb' 0 3 = w.trig := by
  have h : ∀ (b : Bool) (t : Trigger), (0#4 ++ BitVec.ofBool b ++ t).extractLsb' 4 4 = 0#4 ∧
      (0#4 ++ BitVec.ofBool b ++ t).getLsbD 3 = b ∧ (0#4 ++ BitVec.ofBool b ++ t).extractLsb' 0 3 = t := by decide
  exact h w.busy w.trig

theorem takePayload_payloadBytes (p : Payload) (rest : List Byte) :
    takePayload (payloadBytes p ++ rest) = some (p, rest) := rfl

/-- R65: whether a sample selects a DECODE does not depend on the bus. -/
theorem isDecode_decodeOp_congr (b : Bool) (t : Trigger) (rd rd' : Bus) :
    isDecode (decodeOp ⟨b, t, rd⟩) = isDecode (decodeOp ⟨b, t, rd'⟩) := by
  simp only [decodeOp, apply_ite isDecode, isDecode_decodeInstr]

/-- R69: the word of an operation that is no DECODE leaves the bus at 0. -/
theorem encode_rdData_of_not_decode {i : Instr} (hi : isDecode i = false) : (encode i).rdData = 0 := by
  cases i with
  | reset | idle | decodeUnbound | reqWhileBusy => rfl
  | _ => cases hi

/-- The bytes of a word that selects a DECODE: the first byte, then the nine of its payload. -/
theorem decodeBytes_opByte_payload {w : OpWord} (hd : isDecode (decodeOp w) = true) (rest : List Byte) :
    decodeBytes (opByte w :: (payloadBytes (payloadOfBus w.rdData) ++ rest)) = .ok (decodeOp w, rest) := by
  obtain ⟨hz, hb, ht⟩ := opByte_fields w
  have hd0 : isDecode (decodeOp ⟨w.busy, w.trig, 0⟩) = true := (isDecode_decodeOp_congr ..).trans hd
  simp only [decodeBytes, hz, hb, ht, hd0, bne_self_eq_false, Bool.false_eq_true, if_false, if_true,
    takePayload_payloadBytes, busOfPayload_payloadOfBus]

/-- The bytes of a word that selects no DECODE: the first byte alone. -/
theorem decodeBytes_opByte {w : OpWord} (hrd : w.rdData = 0) (hd : isDecode (decodeOp w) = false) (rest : List Byte) :
    decodeBytes (opByte w :: rest) = .ok (decodeOp w, rest) := by
  obtain ⟨hz, hb, ht⟩ := opByte_fields w
  have hw : (⟨w.busy, w.trig, 0⟩ : OpWord) = w := by rw [← hrd]
  simp only [decodeBytes, hz, hb, ht, hw, hd, bne_self_eq_false, Bool.false_eq_true, if_false]

/-- Settles O6: the first byte gives the word's busy bit and trigger, the nine bytes its bus, and the word decodes back
(`decodeEncodeAgree`). -/
theorem byteFormDecodeEncodeAgree : Obligations.ByteFormDecodeEncodeAgree := by
  intro i rest hw
  have hback := decodeEncodeAgree i hw
  cases hi : isDecode i with
  | false =>
    have h := decodeBytes_opByte (encode_rdData_of_not_decode hi) (hback.symm ▸ hi) rest
    simpa [encodeBytes, hi, hback] using h
  | true =>
    have h := decodeBytes_opByte_payload (w := encode i) (hback.symm ▸ hi) rest
    simpa [encodeBytes, hi, hback] using h

/-! ### Words written out (R60, R65, R67, R123) -/

/-- Settles O8: the words of the table and of the vectors, each decoded. -/
theorem writtenOutWordsDecode : Obligations.WrittenOutWordsDecode := by
  unfold Obligations.WrittenOutWordsDecode
  decide

end Sys2Proof.Machine
end

section
/-!
10_state, 20_memory and 60_exceptions over one step: the events a step records account for what it does (R22, R28, R35), the
channels stay legal (R23), the history stays in order (R49), and a step of an unfaulted block completes.
-/

namespace Sys2Proof.Machine

open Sys2Proof.Safety

/-! ### The invariants (R23, R49, R81) -/

/-- Settles O43: `step_channelsLegal`, the step lemma of R23. -/
theorem stepKeepsChannelsLegal : Obligations.StepKeepsChannelsLegal :=
  fun _ _ => step_channelsLegal

/-- R49: a history that goes on from the point the old phase says to the point the new one says stays in order. -/
theorem historyOrdered_append {u v : State} {es : List Event} (hu : HistoryOrdered u) (hh : v.hist = u.hist ++ es)
    (hes : expectAfter (phaseExpects u.phase) es = some (phaseExpects v.phase)) : HistoryOrdered v := by
  unfold HistoryOrdered at hu ⊢
  rw [hh, expectAfter_append, hu]
  exact hes

/-- R120: EV_RESET may come at every phase. -/
theorem expectAfter_reset (ph : Phase) : expectAfter (phaseExpects ph) [.reset] = some .ready := by
  match ph with
  | .idle | .busy .read | .busy .flush | .busy .clear | .busy .commit => rfl

/-- R49: each stage of a cycle-level DECODE records the events its phase says come next. -/
theorem stageStep_historyOrdered {u v : State} (hu : HistoryOrdered u) (h : stageStep u = .next v) : HistoryOrdered v := by
  obtain ⟨rfl, -⟩ | ⟨hp, rfl⟩ | ⟨hp, rfl⟩ | ⟨p, hp, -, rfl⟩ := stageStep_cases h
  · exact hu
  · exact historyOrdered_append (es := [.flushRx]) hu rfl (hp ▸ rfl)
  · exact historyOrdered_append (es := [.clearStatus]) hu rfl (hp ▸ rfl)
  · exact historyOrdered_append (es := [.commit _ _ _ _ _, .fsClr]) hu (List.append_assoc ..) (hp ▸ rfl)

/-- Settles O45: what RESET, a whole DECODE, the read and each stage record comes at the point the phase says. -/
theorem stepKeepsEventOrder : Obligations.StepKeepsEventOrder := by
  intro s t hs h
  have hp : HistoryOrdered (prepared s) := by rwa [HistoryOrdered, prepared_hist, prepared_phase]
  refine step_induct (P := HistoryOrdered) (hprep := hp) (hreset := ?_) (hfault := fun _ _ => hp)
    (hframe := fun p hi => ?_) (haccept := fun hi => ?_) (hread := fun u p _ hu ho => ?_)
    (hstage := fun _ _ _ => stageStep_historyOrdered) h
  · exact historyOrdered_append hp (resetBlock_hist _) (expectAfter_reset _)
  · exact historyOrdered_append hp (decodeFrame_hist p _) (by rw [decodeFrame_phase, hi]; rfl)
  · exact historyOrdered_append (es := []) hp (List.append_nil _).symm (hi ▸ rfl)
  · exact historyOrdered_append (es := [.read 9 p]) ho rfl (hu ▸ rfl)

/-- Settles O42: the reset state's fields. -/
theorem resetMeetsTheInvariants : Obligations.ResetMeetsTheInvariants :=
  ⟨⟨rfl, rfl⟩, channelsLegal_zero, rfl, ⟨rfl, rfl⟩, .inl rfl⟩

/-! ### What the events of a step account for (R22, R28, R35) -/

/-- From one state to another the history grows by these events, which give the new CH and PB; a pulse is up if it was or its
event is among them. -/
structure Records (u : State) (es : List Event) (v : State) : Prop where
  hist : v.hist = u.hist ++ es
  ch : v.ch = replay u.ch es
  pb : v.pb = lastRead u.pb es
  flushRx : v.flushRx = (u.flushRx || es.contains .flushRx)
  clrStatus : v.clrStatus = (u.clrStatus || es.contains .clearStatus)
  fsClr : v.fsClr = (u.fsClr || es.contains .fsClr)

/-- What leaves the five fields records nothing. -/
theorem Records.nil {u v : State} (hhist : v.hist = u.hist) (hch : v.ch = u.ch) (hpb : v.pb = u.pb)
    (hflush : v.flushRx = u.flushRx) (hclear : v.clrStatus = u.clrStatus) (hfs : v.fsClr = u.fsClr) : Records u [] v :=
  ⟨by rw [hhist, List.append_nil], hch, hpb, by simp [hflush], by simp [hclear], by simp [hfs]⟩

theorem Records.trans {u v w : State} {es fs : List Event} (h : Records u es v) (h' : Records v fs w) :
    Records u (es ++ fs) w where
  hist := by rw [h'.hist, h.hist, List.append_assoc]
  ch := by rw [h'.ch, h.ch, replay_append]
  pb := by rw [h'.pb, h.pb, lastRead_append]
  flushRx := by rw [h'.flushRx, h.flushRx, List.contains_append, Bool.or_assoc]
  clrStatus := by rw [h'.clrStatus, h.clrStatus, List.contains_append, Bool.or_assoc]
  fsClr := by rw [h'.fsClr, h.fsClr, List.contains_append, Bool.or_assoc]

theorem records_readStep (p : Payload) (ph : Phase) (u : State) :
    Records u [.read 9 p] (setPhase ph (readStep p u)) :=
  ⟨rfl, rfl, rfl, (Bool.or_false _).symm, (Bool.or_false _).symm, (Bool.or_false _).symm⟩

theorem records_flushStep (ph : Phase) (u : State) : Records u [.flushRx] (setPhase ph (flushStep u)) :=
  ⟨rfl, rfl, rfl, (Bool.or_true _).symm, (Bool.or_false _).symm, (Bool.or_false _).symm⟩

theorem records_clearStep (ph : Phase) (u : State) : Records u [.clearStatus] (setPhase ph (clearStep u)) :=
  ⟨rfl, rfl, rfl, (Bool.or_false _).symm, (Bool.or_true _).symm, (Bool.or_false _).symm⟩

theorem records_commitStage (p : Payload) (a : Int) (ph : Phase) (u : State) :
    Records u [.commit (throttle p) (roll p) (pitch p) (yaw p) a, .fsClr]
      (setPhase ph (failsafeReset (commitPayload p a u))) :=
  ⟨List.append_assoc .., rfl, rfl, (Bool.or_false _).symm, (Bool.or_false _).symm, (Bool.or_true _).symm⟩

/-- R80: a whole DECODE is its four stages, one after the other. -/
theorem records_decodeWith (p : Payload) (a : Int) (u : State) : Records u (frameEvents p a) (decodeWith p a u) :=
  (((records_readStep p u.phase u).trans (records_flushStep u.phase _)).trans (records_clearStep u.phase _)).trans
    (records_commitStage p a u.phase _)

/-- R120: RESET records EV_RESET, and puts the pulses, which the step around it has ended, at 0. -/
theorem records_resetBlock {u : State} (hflush : u.flushRx = false) (hclear : u.clrStatus = false) (hfs : u.fsClr = false) :
    Records u [.reset] (resetBlock u) :=
  ⟨rfl, rfl, rfl, by rw [hflush]; rfl, by rw [hclear]; rfl, by rw [hfs]; rfl⟩

/-- The event is an EV_COMMIT. -/
def isCommit : Event → Bool
  | .commit _ _ _ _ _ => true
  | _ => false

/-- How many commits are to come of the DECODE in progress: one as long as there is one, since its commit ends it. -/
def commitsLeft : Phase → Nat
  | .idle => 0
  | .busy _ => 1

/-- From one state to another events are recorded, the commits among them and the one still to come making at most one. -/
def RecordsOneFrame (u v : State) : Prop :=
  ∃ es, Records u es v ∧ es.countP isCommit + commitsLeft v.phase ≤ 1

/-- Recording further events keeps this if they take no more commits than were still to come. -/
theorem RecordsOneFrame.trans {u v w : State} {fs : List Event} (h : RecordsOneFrame u v) (h' : Records v fs w)
    (hc : fs.countP isCommit + commitsLeft w.phase ≤ commitsLeft v.phase) : RecordsOneFrame u w := by
  obtain ⟨es, hes, hle⟩ := h
  refine ⟨es ++ fs, hes.trans h', ?_⟩
  rw [List.countP_append]
  omega

/-- A stage of a DECODE in progress takes no commit but the one that was to come. -/
theorem stageStep_recordsOneFrame {s u v : State} (hu : RecordsOneFrame s u) (h : stageStep u = .next v) :
    RecordsOneFrame s v := by
  obtain ⟨rfl, -⟩ | ⟨hp, rfl⟩ | ⟨hp, rfl⟩ | ⟨p, hp, -, rfl⟩ := stageStep_cases h
  · exact hu
  · exact hu.trans (records_flushStep _ u) (hp ▸ Nat.le_refl 1)
  · exact hu.trans (records_clearStep _ u) (hp ▸ Nat.le_refl 1)
  · exact hu.trans (records_commitStage p _ _ u) (hp ▸ Nat.le_refl 1)

/-- What every step records, by what it can do: nothing, EV_RESET, a whole DECODE, its read or its next stage. -/
theorem step_recordsOneFrame {s t : State} (h : step s = .next t) : RecordsOneFrame (prepared s) t := by
  have hle (ph : Phase) : commitsLeft ph ≤ 1 := by cases ph <;> simp [commitsLeft]
  have hnil {v : State} (hv : Records (prepared s) [] v) : RecordsOneFrame (prepared s) v :=
    ⟨[], hv, (Nat.zero_add _).trans_le (hle v.phase)⟩
  refine step_induct (P := RecordsOneFrame (prepared s)) (hprep := hnil (.nil rfl rfl rfl rfl rfl rfl)) (hreset := ?_)
    (hfault := fun _ _ => hnil (.nil rfl rfl rfl rfl rfl rfl)) (hframe := fun p hi => ?_)
    (haccept := fun _ => hnil (.nil rfl rfl rfl rfl rfl rfl)) (hread := fun u p _ hp hu => ?_)
    (hstage := fun _ _ _ => stageStep_recordsOneFrame) h
  · exact ⟨[.reset], records_resetBlock (prepared_flushRx s) (prepared_clrStatus s) (prepared_fsClr s), Nat.zero_le 1⟩
  · exact ⟨_, records_decodeWith p _ _, by rw [decodeFrame_phase, hi]; exact Nat.le_refl 1⟩
  · exact hu.trans (records_readStep p _ u) (hp ▸ Nat.le_refl 1)

/-- From low pulses, the pulses show the events recorded. -/
theorem Records.pulsesShow {s t : State} {es : List Event} (h : Records (prepared s) es t) : PulsesShow t es := by
  obtain ⟨-, -, -, hflush, hclear, hfs⟩ := h
  simp only [prepared_flushRx, prepared_clrStatus, prepared_fsClr, Bool.false_or] at hflush hclear hfs
  exact ⟨hflush, hclear, hfs⟩

/-- Settles O41: the events are those of `step_recordsOneFrame`; a step that raises a fault adds none, since it leaves HIST
(`faultsArePrecise`). -/
theorem stepEffectsAreItsEvents : Obligations.StepEffectsAreItsEvents := by
  intro s t h
  obtain ⟨es, hes, hle⟩ := step_recordsOneFrame h
  have hhist := hes.hist.trans (congrArg (· ++ es) (prepared_hist s))
  refine ⟨es, hhist, ?_, ?_, hes.pulsesShow, Nat.le_of_add_right_le hle, fun hfault => ?_⟩
  · rw [hes.ch, prepared_ch]
  · rw [hes.pb, prepared_pb]
  · obtain ⟨-, -, hkeep, -⟩ := faultsArePrecise s t h hfault
    exact List.append_right_eq_self.mp (hhist.symm.trans hkeep)

/-- Settles O46: replaying the longer history is replaying the step's events from what the history before gave. -/
theorem stepKeepsHistoryAccount : Obligations.StepKeepsHistoryAccount := by
  rintro s t ⟨hch, hpb⟩ h
  obtain ⟨es, hhist, htch, htpb, -⟩ := stepEffectsAreItsEvents s t h
  constructor
  · rw [hhist, replay_append, hch, htch]
  · rw [hhist, lastRead_append, hpb, htpb]

/-- Settles O36: the levels are fields of the state, and the pulses show the step's events (`stepEffectsAreItsEvents`). -/
theorem outputPortsShowTheState : Obligations.OutputPortsShowTheState := by
  intro s
  refine ⟨rfl, rfl, rfl, rfl, rfl, rfl, rfl, busy_eq_true s, rdReq_eq_true s, fun hreq => (busy_eq_true s).mpr ?_, rfl, rfl,
    rfl, fun t h => ?_⟩
  · rw [(rdReq_eq_true s).mp hreq]; nofun
  · obtain ⟨es, hhist, -, -, hpulses, -⟩ := stepEffectsAreItsEvents s t h
    exact ⟨es, hhist, hpulses⟩

/-! ### The frames of the operations (R80, R120 to R123) -/

/-- Settles O39: a DECODE is `decodeWith`, which writes five channels, PB, the pulses and HIST. -/
theorem decodeLeavesTheRestUnchanged : Obligations.DecodeLeavesTheRestUnchanged := by
  intro i s t hi h
  obtain ⟨p, a, rfl⟩ := exec_eq_decodeWith hi h
  exact ⟨rfl, rfl, rfl, rfl, rfl, _, (decodeWith_hist p a s).symm⟩

/-- Settles O40: the four control operations, each by what it can do (`exec_cases`). -/
theorem controlLeavesTheRestUnchanged : Obligations.ControlLeavesTheRestUnchanged := by
  intro i s t hi h
  obtain ⟨-, ⟨b, d, rfl, rfl⟩ | ⟨b, rfl, rfl⟩ | ⟨rfl, rfl⟩ | ⟨b, rfl, rfl⟩ | ⟨p, a, hd, -, -⟩⟩ := exec_cases h
  · exact ⟨rfl, rfl, ⟨_, (resetBlock_hist s).symm⟩, fun _ => rfl, fun hr => absurd rfl (hr b d)⟩
  · exact ⟨rfl, rfl, ⟨[], List.append_nil _⟩, nofun, fun _ => rfl⟩
  · exact ⟨rfl, rfl, ⟨[], List.append_nil _⟩, nofun, fun _ => rfl⟩
  · exact ⟨rfl, rfl, ⟨[], List.append_nil _⟩, nofun, fun _ => rfl⟩
  · simp [hi] at hd

/-! ### Every step of an unfaulted block completes (R81) -/

/-- R81: a DECODE past its read has its payload. -/
theorem pb_ne_none_of_payloadHeld {s : State} {st : Stage} (h : PayloadHeld s) (hp : s.phase = .busy st)
    (hst : st ≠ .read) : s.pb ≠ none := by
  simpa [PayloadHeld, hp, hst] using h

/-- A stage stops only for want of a payload (log entry 9). -/
theorem stageStep_completes {s : State} (h : PayloadHeld s) : ∃ t, stageStep s = .next t := by
  match hp : s.phase with
  | .idle | .busy .read | .busy .flush | .busy .clear => exact ⟨_, by rw [stageStep, hp]⟩
  | .busy .commit =>
    obtain ⟨p, hpb⟩ := Option.ne_none_iff_exists'.mp (pb_ne_none_of_payloadHeld h hp (by decide))
    exact ⟨_, by rw [stageStep, hp, hpb]⟩

theorem stageStep_payloadHeld {s t : State} (hs : PayloadHeld s) (h : stageStep s = .next t) : PayloadHeld t := by
  obtain ⟨rfl, -⟩ | ⟨hp, rfl⟩ | ⟨hp, rfl⟩ | ⟨p, -, -, rfl⟩ := stageStep_cases h
  · exact hs
  · exact .inr (.inr (pb_ne_none_of_payloadHeld (s := s) hs hp (by decide)))
  · exact .inr (.inr (pb_ne_none_of_payloadHeld (s := s) hs hp (by decide)))
  · exact .inl rfl

theorem advance_completes (n : Nat) {s : State} (h : PayloadHeld s) : ∃ t, advance n s = .next t := by
  induction n generalizing s with
  | zero => exact ⟨s, rfl⟩
  | succ n ih =>
    obtain ⟨u, hu⟩ := stageStep_completes h
    obtain ⟨t, ht⟩ := ih (stageStep_payloadHeld h hu)
    exact ⟨t, by rw [advance, hu]; exact ht⟩

theorem cycleWork_completes (ack : Bool) (rd : Bus) (n : Nat) {s : State} (h : PayloadHeld s) :
    ∃ t, cycleWork ack rd n s = .next t := by
  refine advance_completes n ?_
  unfold answerRead
  split
  · exact .inr (.inr (Option.some_ne_none _))
  · exact h

/-- Every operation completes in a state with FAULT = NONE. -/
theorem exec_completes (i : Instr) {s : State} (h : s.faultMark = .none) : ∃ t, exec i s = .next t := by
  cases i with
  | reset b d => exact ⟨_, exec_reset b d h⟩
  | idle b => exact ⟨_, exec_idle b h⟩
  | decodeNoflip p => exact ⟨_, exec_decodeNoflip p h⟩
  | decodeFlipHi p => exact ⟨_, exec_decodeFlipHi p h⟩
  | decodeFlipLo p => exact ⟨_, exec_decodeFlipLo p h⟩
  | decodeFlipDead p => exact ⟨_, exec_decodeFlipDead p h⟩
  | decodeUnbound => exact ⟨_, exec_decodeUnbound h⟩
  | reqWhileBusy b => exact ⟨_, exec_reqWhileBusy b h⟩

/-- A control operation keeps the phase and PB, or (RESET) ends the DECODE in progress. -/
theorem exec_phase_pb_of_not_decode {i : Instr} {s t : State} (hi : isDecode i = false) (h : exec i s = .next t) :
    t.phase = .idle ∨ (t.phase = s.phase ∧ t.pb = s.pb) := by
  obtain ⟨-, ⟨b, d, -, rfl⟩ | ⟨b, -, rfl⟩ | ⟨-, rfl⟩ | ⟨b, -, rfl⟩ | ⟨p, a, hd, -, -⟩⟩ := exec_cases h
  · exact .inl rfl
  · exact .inr ⟨rfl, rfl⟩
  · exact .inr ⟨rfl, rfl⟩
  · exact .inr ⟨rfl, rfl⟩
  · simp [hi] at hd

theorem exec_payloadHeld {i : Instr} {s t : State} (hi : isDecode i = false) (hs : PayloadHeld s) (h : exec i s = .next t) :
    PayloadHeld t := by
  obtain ht | ⟨ht, hpb⟩ := exec_phase_pb_of_not_decode hi h
  · exact .inl ht
  · rwa [PayloadHeld, ht, hpb]

theorem cycle_completes (t : Trigger) (ack : Bool) (rd : Bus) (n : Nat) {s : State} (hf : s.faultMark = .none)
    (hs : PayloadHeld s) : ∃ u, cycle t ack rd n s = .next u := by
  cases hd : isDecode (decodeOp ⟨s.busy, t, 0⟩) with
  | true => exact ⟨_, if_pos hd⟩
  | false =>
    obtain ⟨u, hu⟩ := exec_completes (decodeOp ⟨s.busy, t, 0⟩) hf
    rw [cycle_of_exec rfl hd hu]
    split
    · exact cycleWork_completes ack rd n (exec_payloadHeld hd hs hu)
    · exact ⟨u, rfl⟩

theorem respond_completes (x : Stimulus) {s : State} (hf : s.faultMark = .none) (hs : PayloadHeld s) :
    ∃ t, respond x s = .next t := by
  cases x with
  | transaction t rd => exact exec_completes _ hf
  | cycle t ack rd n => exact cycle_completes t ack rd n hf hs

/-- R81: every step keeps the payload of a DECODE past its read. -/
theorem step_payloadHeld {s t : State} (hs : PayloadHeld s) (h : step s = .next t) : PayloadHeld t := by
  have hp : PayloadHeld (prepared s) := by rwa [PayloadHeld, prepared_phase, prepared_pb]
  exact step_induct (P := PayloadHeld) (hprep := hp) (hreset := .inl rfl) (hfault := fun _ _ => hp)
    (hframe := fun p _ => .inr (.inr (Option.some_ne_none p))) (haccept := fun _ => .inr (.inl rfl))
    (hread := fun _ p _ _ _ => .inr (.inr (Option.some_ne_none p))) (hstage := fun _ _ _ => stageStep_payloadHeld) h

/-- Settles O47: a step is the response to its sample, which completes at either level. -/
theorem unfaultedStepCompletes : Obligations.UnfaultedStepCompletes := by
  intro s hf hs
  have hp : PayloadHeld (prepared s) := by rwa [PayloadHeld, prepared_phase, prepared_pb]
  obtain ⟨t, ht⟩ := respond_completes (nextSample s) ((prepared_faultMark s).trans hf) hp
  have hstep := (step_of_none hf).trans ht
  exact ⟨t, hstep, step_payloadHeld hs hstep⟩

end Sys2Proof.Machine
end

section
/-!
40_frame_decode and 70_reset_and_hazards: what a step runs (R60), the read handshake (R81, R165), the cycle-level DECODE as the
transaction (R80, R168), and what RESET or a request does to one in progress (R120, R123).
-/

namespace Sys2Proof.Machine

open Sys2Proof.Safety

/-! ### A step and its sample (R60, log entries 1 and 12) -/

theorem prepared_cons {s : State} {x : Stimulus} {xs : List Stimulus} (h : s.script = x :: xs) :
    prepared s = { s with script := xs, flushRx := false, clrStatus := false, fsClr := false } := by
  rw [prepared, takeSample_cons h]; rfl

theorem prepared_nil {s : State} (h : s.script = []) :
    prepared s = { s with draws := s.draws + 1, flushRx := false, clrStatus := false, fsClr := false } := by
  rw [prepared, takeSample_nil h]; rfl

/-- A step responds to the oldest sample of the script. -/
theorem step_cons {s : State} {x : Stimulus} {xs : List Stimulus} (hf : s.faultMark = .none) (hx : s.script = x :: xs) :
    step s = respond x (prepared s) := by
  rw [step_of_none hf, nextSample_cons hx]

/-- Settles O2: `respond` on the prepared state, with the sample of the script or of the free host. -/
theorem stepRunsTheDecodedOperation : Obligations.StepRunsTheDecodedOperation := by
  refine ⟨fun s t rd rest hf hx => ?_, fun s t ack rd n rest hf hx => ?_, fun s hf hx => ?_⟩
  · rw [step_transaction hf hx, prepared_cons hx]
  · rw [step_cons hf hx, prepared_cons hx]; rfl
  · rw [step_of_none hf, nextSample_nil hx, prepared_nil hx]

/-! ### A request or a RESET while a DECODE is in progress (R120, R123) -/

/-- Settles O51: `bound` does not enter the request to a busy block, at either level. -/
theorem busyRequestWithBoundLowRaisesReqWhileBusy : Obligations.BusyRequestWithBoundLowRaisesReqWhileBusy := by
  intro s hf hb
  refine ⟨fun ack rd n => cycle_busy_request ack rd n hf hb rfl rfl, fun hx => ?_⟩
  have hstep : step s = .next (raiseFault .reqWhileBusy (prepared s)) := by
    rw [step_of_none hf]
    exact respond_busy_request ((prepared_faultMark s).trans hf) ((prepared_busy s).trans hb) (hx ▸ rfl) (hx ▸ rfl)
  exact ⟨_, hstep, rfl, prepared_ch s, prepared_pb s, prepared_hist s, prepared_phase s⟩

/-- R49: a history of one event. -/
theorem expectAfter_singleton (q : Expect) (e : Event) : expectAfter q [e] = expectNext q e := by
  rw [expectAfter]; cases expectNext q e <;> rfl

/-- The event is one a DECODE records before its commit. -/
def BeforeCommit (e : Event) : Prop := (∃ n p, e = .read n p) ∨ e = .flushRx ∨ e = .clearStatus

/-- R49: a history that stands within a DECODE short of its EV_COMMIT got there by an event from before the commit, and stood
short of the commit before it. -/
theorem beforeCommit_of_expectNext {q q' : Expect} {e : Event} (h : expectNext q' e = some q) (hr : q ≠ .ready)
    (hf : q ≠ .fsClr) : BeforeCommit e ∧ q' ≠ .fsClr := by
  cases e with
  | read n p => exact ⟨.inl ⟨n, p, rfl⟩, by rintro rfl; cases h⟩
  | flushRx => exact ⟨.inr (.inl rfl), by rintro rfl; cases h⟩
  | clearStatus => exact ⟨.inr (.inr rfl), by rintro rfl; cases h⟩
  | commit => cases q' <;> cases h; exact absurd rfl hf
  | fsClr => cases q' <;> cases h; exact absurd rfl hr
  | reset => cases q' <;> cases h <;> exact absurd rfl hr

/-- R49: a history in order that stands short of an EV_FS_CLR is a run of whole transactions and, of the last DECODE, what
came before its commit. -/
theorem history_eq_whole_append_part {es : List Event} {q : Expect} (h : expectAfter .ready es = some q) (hf : q ≠ .fsClr) :
    ∃ whole part, es = whole ++ part ∧ expectAfter .ready whole = some .ready ∧ (q = .ready → part = []) ∧
      ∀ e ∈ part, BeforeCommit e := by
  induction es using List.reverseRecOn generalizing q with
  | nil => exact ⟨[], [], rfl, rfl, fun _ => rfl, nofun⟩
  | append_singleton es e ih =>
    by_cases hr : q = .ready
    · subst hr
      exact ⟨es ++ [e], [], (List.append_nil _).symm, h, fun _ => rfl, nofun⟩
    · rw [expectAfter_append] at h
      obtain ⟨q', hq', he⟩ := Option.bind_eq_some_iff.mp h
      obtain ⟨hb, hf'⟩ := beforeCommit_of_expectNext ((expectAfter_singleton q' e).symm.trans he) hr hf
      obtain ⟨whole, part, rfl, hwhole, -, hpart⟩ := ih hq' hf'
      refine ⟨whole, part ++ [e], List.append_assoc .., hwhole, fun hq => absurd hq hr, fun e' he' => ?_⟩
      obtain he' | he' := List.mem_append.mp he'
      · exact hpart e' he'
      · exact List.mem_singleton.mp he' ▸ hb

/-- Settles O52: no phase stands between EV_COMMIT and EV_FS_CLR, so the history ends in a DECODE's events from before its
commit; the step is `resetBlock`. -/
theorem resetAbandonsTheDecodeInProgress : Obligations.ResetAbandonsTheDecodeInProgress := by
  intro s hf ho h2
  have hne : phaseExpects s.phase ≠ .fsClr := by
    match s.phase with
    | .idle | .busy .read | .busy .flush | .busy .clear | .busy .commit => nofun
  obtain ⟨whole, part, heq, hwhole, hnil, hpart⟩ := history_eq_whole_append_part ho hne
  have hstep : step s = .next (resetBlock (prepared s)) :=
    (step_of_none hf).trans (respond_rst ((prepared_faultMark s).trans hf) h2)
  exact ⟨whole, part, heq, hwhole, fun hi => hnil (hi ▸ rfl), hpart, _, hstep,
    congrArg (· ++ [Event.reset]) (prepared_hist s), rfl, rfl, rfl⟩

/-! ### When the bus is read (R165) -/

/-- R165: without an answer the work of a DECODE does not read the bus. -/
theorem cycleWork_no_answer (rd : Bus) (n : Nat) (s : State) : cycleWork false rd n s = advance n s := by
  simp [cycleWork, answerRead]

/-- R81, R165: a DECODE that does not wait for its read takes no answer. -/
theorem cycleWork_of_not_waiting (ack : Bool) (rd : Bus) (n : Nat) {s : State} (h : s.phase ≠ .busy .read) :
    cycleWork ack rd n s = advance n s := by
  simp [cycleWork, answerRead, h]

/-- A control operation does not make a block wait for an answer. -/
theorem exec_not_waiting {i : Instr} {s t : State} (hi : isDecode i = false) (hs : s.phase ≠ .busy .read)
    (h : exec i s = .next t) : t.phase ≠ .busy .read := by
  obtain ht | ⟨ht, -⟩ := exec_phase_pb_of_not_decode hi h
  · rw [ht]; nofun
  · rwa [ht]

/-- A clock cycle looks at the transport's inputs only in the work of the DECODE its operation leaves in progress. -/
theorem cycle_congr {t : Trigger} {ack ack' : Bool} {rd rd' : Bus} {n : Nat} {s : State}
    (h : ∀ u, isDecode (decodeOp ⟨s.busy, t, 0⟩) = false → exec (decodeOp ⟨s.busy, t, 0⟩) s = .next u →
      cycleWork ack rd n u = cycleWork ack' rd' n u) : cycle t ack rd n s = cycle t ack' rd' n s := by
  cases hd : isDecode (decodeOp ⟨s.busy, t, 0⟩) with
  | true => simp only [cycle, hd, if_true]
  | false =>
    cases hx : exec (decodeOp ⟨s.busy, t, 0⟩) s with
    | next u => rw [cycle_of_exec rfl hd hx, cycle_of_exec rfl hd hx, h u hd hx]
    | fault r => simp only [cycle, hd, hx, Bool.false_eq_true, if_false]
    | refused r => simp only [cycle, hd, hx, Bool.false_eq_true, if_false]

/-- Settles O54: the bus is read in the work of a DECODE in progress alone, with an answer, by a block that waits for it. -/
theorem busIsReadOnlyInTheAnswer : Obligations.BusIsReadOnlyInTheAnswer := by
  refine fun s t rd rd' n => ⟨cycle_congr fun u _ _ => ?_, fun hs ack ack' => cycle_congr fun u hd hu => ?_⟩
  · rw [cycleWork_no_answer, cycleWork_no_answer]
  · have hw := exec_not_waiting hd hs hu
    rw [cycleWork_of_not_waiting ack rd n hw, cycleWork_of_not_waiting ack' rd' n hw]

/-! ### A cycle-level DECODE and the transaction (R80, R81) -/

/-- What the transaction of payload `p` has made of `s` by the time a cycle-level DECODE is in this phase. -/
def decodeSoFar (p : Payload) (s : State) : Phase → State
  | .busy .read => s
  | .busy .flush => readStep p s
  | .busy .clear => flushStep (readStep p s)
  | .busy .commit => clearStep (flushStep (readStep p s))
  | .idle => decodeFrame p s

/-- A DECODE of payload `p`, begun in `s`, has its answer, and has done on the tuple of R20 what its phase says. -/
def Answered (p : Payload) (s u : State) : Prop := u.phase ≠ .busy .read ∧ tuple u = tuple (decodeSoFar p s u.phase)

theorem tuple_eq_iff {s t : State} :
    tuple s = tuple t ↔ s.ch = t.ch ∧ s.pb = t.pb ∧ s.faultMark = t.faultMark ∧ s.hist = t.hist := by
  simp only [tuple, Prod.mk.injEq]

/-! The stages read the tuple and nothing else. -/

theorem tuple_readStep_congr (p : Payload) {s t : State} (h : tuple s = tuple t) :
    tuple (readStep p s) = tuple (readStep p t) := by
  obtain ⟨hch, -, hf, hh⟩ := tuple_eq_iff.mp h
  exact tuple_eq_iff.mpr ⟨hch, rfl, hf, congrArg (· ++ [Event.read 9 p]) hh⟩

theorem tuple_flushStep_congr {s t : State} (h : tuple s = tuple t) : tuple (flushStep s) = tuple (flushStep t) := by
  obtain ⟨hch, hpb, hf, hh⟩ := tuple_eq_iff.mp h
  exact tuple_eq_iff.mpr ⟨hch, hpb, hf, congrArg (· ++ [Event.flushRx]) hh⟩

theorem tuple_clearStep_congr {s t : State} (h : tuple s = tuple t) : tuple (clearStep s) = tuple (clearStep t) := by
  obtain ⟨hch, hpb, hf, hh⟩ := tuple_eq_iff.mp h
  exact tuple_eq_iff.mpr ⟨hch, hpb, hf, congrArg (· ++ [Event.clearStatus]) hh⟩

theorem tuple_commitStage_congr (p : Payload) (a : Int) {s t : State} (h : tuple s = tuple t) :
    tuple (failsafeReset (commitPayload p a s)) = tuple (failsafeReset (commitPayload p a t)) := by
  obtain ⟨hch, hpb, hf, hh⟩ := tuple_eq_iff.mp h
  refine tuple_eq_iff.mpr ⟨?_, hpb, hf, ?_⟩
  · simp only [failsafeReset_ch, commitPayload_eq, commit_ch, hch]
  · simp only [failsafeReset_hist, commitPayload_eq, commit_hist, hh]

/-- R81: up to its answer a DECODE has changed nothing; after the answer it is past the read. -/
theorem answered_read {p : Payload} {s u : State} (h : tuple u = tuple s) :
    Answered p s (setPhase (.busy .flush) (readStep p u)) :=
  ⟨nofun, tuple_readStep_congr p h⟩

/-- R80: the stage a DECODE does next is the transaction's. -/
theorem stageStep_answered {p : Payload} {s u v : State} (hu : Answered p s u) (h : stageStep u = .next v) :
    Answered p s v := by
  obtain ⟨hw, htup⟩ := hu
  obtain ⟨rfl, -⟩ | ⟨hp, rfl⟩ | ⟨hp, rfl⟩ | ⟨p', hp, hpb, rfl⟩ := stageStep_cases h
  · exact ⟨hw, htup⟩
  · rw [hp] at htup
    exact ⟨nofun, tuple_flushStep_congr htup⟩
  · rw [hp] at htup
    exact ⟨nofun, tuple_clearStep_congr htup⟩
  · rw [hp] at htup
    obtain ⟨hch, hpb', -, -⟩ := tuple_eq_iff.mp htup
    obtain rfl : p' = p := Option.some.inj (hpb.symm.trans hpb')
    have ha : aux1Held u = aux1Held s := congrArg (fun c : Channels => signed c.aux1) hch
    rw [ha]
    exact ⟨nofun, tuple_commitStage_congr p' _ htup⟩

/-- The answer in a cycle begins the stages after the read. -/
theorem cycleWork_answer (rd : Bus) (n : Nat) {s : State} (h : s.phase = .busy .read) :
    cycleWork true rd n s = advance n (setPhase (.busy .flush) (readStep (payloadOfBus rd) s)) := by
  simp [cycleWork, answerRead, h]

theorem cycleWork_answered {p : Payload} {ack : Bool} {rd : Bus} {n : Nat} {s u v : State} (hu : Answered p s u)
    (h : cycleWork ack rd n u = .next v) : Answered p s v :=
  cycleWork_induct (P := Answered p s) (fun _ hr h => absurd hr h.1) (fun _ _ => stageStep_answered) hu h

theorem cycleWork_answered_of_answer {rd : Bus} {n : Nat} {s u v : State} (hp : u.phase = .busy .read)
    (hu : tuple u = tuple s) (h : cycleWork true rd n u = .next v) : Answered (payloadOfBus rd) s v := by
  rw [cycleWork_answer rd n hp] at h
  exact advance_induct (fun _ _ => stageStep_answered) n _ v (answered_read hu) h

/-! ### The read handshake (R81) -/

/-- R81: once it has its answer, a DECODE holds the payload in PB and has recorded its EV_READ right after the old history. -/
theorem pb_hist_of_answered {p : Payload} {s u : State} (h : Answered p s u) :
    u.pb = some p ∧ ∃ es, u.hist = s.hist ++ .read 9 p :: es := by
  obtain ⟨hw, htup⟩ := h
  obtain ⟨-, hpb, -, hh⟩ := tuple_eq_iff.mp htup
  rw [hpb, hh]
  match u.phase, hw with
  | .busy .flush, _ => exact ⟨rfl, [], rfl⟩
  | .busy .clear, _ => exact ⟨rfl, [.flushRx], List.append_assoc ..⟩
  | .busy .commit, _ => exact ⟨rfl, [.flushRx, .clearStatus], by simp [decodeSoFar]⟩
  | .idle, _ => exact ⟨rfl, _, decodeFrame_hist p s⟩

/-- Settles O53: the accepting cycle is `accept`; an unanswered cycle is no work, and an answered one leaves the DECODE past its
read. -/
theorem readHandshake : Obligations.ReadHandshake := by
  refine ⟨fun s ack rd n hf hp => ⟨accept s, cycle_accept ack rd n hp, rfl, rfl, rfl⟩, fun s t rd n hf hp h2 h0 => ?_⟩
  refine ⟨(cycle_quiet false rd n hf h2 h0).trans (cycleWork_unanswered hp), (rdReq_eq_true s).mpr hp, ?_⟩
  obtain ⟨u, hu⟩ := cycleWork_completes true rd n (s := s) (.inr (.inl hp))
  have hans := cycleWork_answered_of_answer hp rfl hu
  obtain ⟨hpb, es, hh⟩ := pb_hist_of_answered hans
  refine ⟨u, es, (cycle_quiet true rd n hf h2 h0).trans hu, hpb, hh, ?_, ?_⟩
  · exact Bool.eq_false_iff.mpr fun hreq => hans.1 ((rdReq_eq_true u).mp hreq)
  · rintro rfl
    rw [cycleWork_answer rd 0 hp] at hu
    cases hu
    exact ⟨(List.cons.inj (List.append_cancel_left hh)).2.symm, rfl⟩

/-! ### The shortest DECODE (R168) -/

theorem setPhase_of_phase_eq {s : State} {ph : Phase} (h : s.phase = ph) : setPhase ph s = s := by
  subst h; rfl

/-! The three stages after the read, each from its phase -/

theorem stageStep_flush {s : State} (hp : s.phase = .busy .flush) :
    stageStep s = .next (setPhase (.busy .clear) (flushStep s)) := by
  rw [stageStep, hp]

theorem stageStep_clear {s : State} (hp : s.phase = .busy .clear) :
    stageStep s = .next (setPhase (.busy .commit) (clearStep s)) := by
  rw [stageStep, hp]

theorem stageStep_commit {s : State} {p : Payload} (hp : s.phase = .busy .commit) (hpb : s.pb = some p) :
    stageStep s = .next (setPhase .idle (failsafeReset (commitPayload p (aux1Next p (aux1Held s)) s))) := by
  rw [stageStep, hp, hpb]

theorem advance_succ {s t : State} (h : stageStep s = .next t) (n : Nat) : advance (n + 1) s = advance n t := by
  rw [advance, h]

/-! The stages' work does not look at the phase -/

theorem setPhase_setPhase (ph ph' : Phase) (s : State) : setPhase ph (setPhase ph' s) = setPhase ph s := rfl

theorem clearStep_setPhase (ph : Phase) (s : State) : clearStep (setPhase ph s) = setPhase ph (clearStep s) := rfl

theorem flushStep_setPhase (ph : Phase) (s : State) : flushStep (setPhase ph s) = setPhase ph (flushStep s) := rfl

theorem commitStage_setPhase (p : Payload) (a : Int) (ph : Phase) (s : State) :
    failsafeReset (commitPayload p a (setPhase ph s)) = setPhase ph (failsafeReset (commitPayload p a s)) := rfl

theorem decodeFrame_setPhase (p : Payload) (ph : Phase) (s : State) :
    decodeFrame p (setPhase ph s) = setPhase ph (decodeFrame p s) := rfl

/-- R80, R168: answered with a pace of three, a DECODE does the whole transaction in one cycle. -/
theorem cycleWork_answer_three (rd : Bus) {n : Nat} (hn : 3 ≤ n) {s : State} (hp : s.phase = .busy .read) :
    cycleWork true rd n s = .next (setPhase .idle (decodeFrame (payloadOfBus rd) s)) := by
  obtain ⟨k, rfl⟩ := Nat.exists_eq_add_of_le' hn
  rw [cycleWork_answer rd _ hp, advance_succ (stageStep_flush rfl), advance_succ (stageStep_clear rfl),
    advance_succ (stageStep_commit (p := payloadOfBus rd) rfl rfl), advance_idle _ _ rfl]
  simp only [flushStep_setPhase, clearStep_setPhase, commitStage_setPhase, setPhase_setPhase, aux1Held, setPhase_ch,
    clearStep_ch, flushStep_ch, readStep_ch, decodeFrame, decodeWith]

/-- Settles O49: the answered cycle is the transaction (`cycleWork_answer_three`), on a state that differs from the first in its
phase alone. -/
theorem shortestDecodeIsTheTransaction : Obligations.ShortestDecodeIsTheTransaction := by
  intro s t ack rd rd' n n' hf hp h2 h0 hn
  have hidle : (decodeFrame (payloadOfBus rd) (lowerPulses s)).phase = .idle :=
    (decodeFrame_phase _ _).trans ((lowerPulses_phase s).trans hp)
  refine ⟨accept (lowerPulses s), cycle_accept ack rd' n' hp, rfl, rfl, ?_⟩
  have hu : lowerPulses (accept (lowerPulses s)) = setPhase (.busy .read) (lowerPulses s) := rfl
  rw [hu, cycle_quiet (s := setPhase (.busy .read) (lowerPulses s)) true rd n hf h2 h0,
    cycleWork_answer_three rd hn (setPhase_phase _ _), decodeFrame_setPhase, setPhase_setPhase, setPhase_of_phase_eq hidle,
    exec_decodeInstr (s := lowerPulses s) _ hf]

/-! ### Any cycle-level DECODE (R81, R168) -/

theorem stageStep_script {s t : State} (h : stageStep s = .next t) : t.script = s.script := by
  obtain ⟨rfl, -⟩ | ⟨-, rfl⟩ | ⟨-, rfl⟩ | ⟨p, -, -, rfl⟩ := stageStep_cases h <;> rfl

theorem cycleWork_script {ack : Bool} {rd : Bus} {n : Nat} {s t : State} (h : cycleWork ack rd n s = .next t) :
    t.script = s.script :=
  cycleWork_induct (P := fun u => u.script = s.script) (fun _ _ hu => hu) (fun _ _ hu hv => (stageStep_script hv).trans hu)
    rfl h

/-- R121: a step on a quiet cycle is the work of the DECODE in progress, and takes its sample. -/
theorem step_quiet {s t : State} {tr : Trigger} {ack : Bool} {rd : Bus} {n : Nat} {xs : List Stimulus}
    (hf : s.faultMark = .none) (hx : s.script = .cycle tr ack rd n :: xs) (hq : Quiet (.cycle tr ack rd n))
    (h : step s = .next t) : cycleWork ack rd n (prepared s) = .next t ∧ t.faultMark = .none ∧ t.script = xs := by
  have hf' := (prepared_faultMark s).trans hf
  obtain ⟨h2, h0⟩ := hq
  rw [step_cons hf hx, respond, cycle_quiet ack rd n hf' h2 h0] at h
  exact ⟨h, (cycleWork_faultMark h).trans hf', (cycleWork_script h).trans (prepared_script hx)⟩

/-- A run of at least one step has a first step. -/
theorem core_run_succ_eq_next {k : Nat} {s t : State} (h : core.run (k + 1) s = .next t) :
    ∃ u, step s = .next u ∧ core.run k u = .next t := by
  simp only [Host.Core.run] at h
  split at h
  · rename_i u hu; exact ⟨u, hu, h⟩
  · cases h
  · cases h

/-- R80: quiet cycles after the answer take the DECODE on through the transaction. -/
theorem run_quiet_answered {p : Payload} {s u t : State} {xs rest : List Stimulus} (hf : u.faultMark = .none)
    (hx : u.script = xs ++ rest) (hq : ∀ y ∈ xs, Quiet y) (hu : Answered p s u) (h : core.run xs.length u = .next t) :
    Answered p s t := by
  induction xs generalizing u with
  | nil => cases h; exact hu
  | cons y ys ih =>
    obtain ⟨hy, hys⟩ := List.forall_mem_cons.mp hq
    obtain ⟨v, hv, hrun⟩ := core_run_succ_eq_next h
    cases y with
    | transaction tr rd => exact hy.elim
    | cycle tr ack rd n =>
      obtain ⟨hwork, hfv, hxv⟩ := step_quiet hf hx hy hv
      have hprep : Answered p s (prepared u) := by rwa [Answered, prepared_phase, tuple_prepared]
      exact ih hfv hxv hys (cycleWork_answered hprep hwork) hrun

/-- R81: a DECODE that waits ends only by an answer, and the first one gives its payload. -/
theorem run_quiet_waiting {s u t : State} {xs rest : List Stimulus} (hf : u.faultMark = .none)
    (hx : u.script = xs ++ rest) (hq : ∀ y ∈ xs, Quiet y) (hp : u.phase = .busy .read) (hu : tuple u = tuple s)
    (h : core.run xs.length u = .next t) (ht : t.phase = .idle) : ∃ p, firstAnswer xs = some p ∧ Answered p s t := by
  induction xs generalizing u with
  | nil => cases h; cases hp.symm.trans ht
  | cons y ys ih =>
    obtain ⟨hy, hys⟩ := List.forall_mem_cons.mp hq
    obtain ⟨v, hv, hrun⟩ := core_run_succ_eq_next h
    have hp' := (prepared_phase u).trans hp
    have hu' := (tuple_prepared u).trans hu
    cases y with
    | transaction tr rd => exact hy.elim
    | cycle tr ack rd n =>
      obtain ⟨hwork, hfv, hxv⟩ := step_quiet hf hx hy hv
      cases ack with
      | true => exact ⟨_, rfl, run_quiet_answered hfv hxv hys (cycleWork_answered_of_answer hp' hu' hwork) hrun⟩
      | false =>
        cases (cycleWork_unanswered hp').symm.trans hwork
        exact ih hfv hxv hys hp' hu' hrun

/-- R25: a step on an accepting cycle. -/
theorem step_accept {s : State} {x : Stimulus} {xs : List Stimulus} (hf : s.faultMark = .none) (hp : s.phase = .idle)
    (hx : s.script = x :: xs) (ha : Accepts x) : step s = .next (accept (prepared s)) := by
  rw [step_cons hf hx]
  cases x with
  | transaction t rd => exact ha.elim
  | cycle t ack rd n => cases ha; exact cycle_accept ack rd n ((prepared_phase s).trans hp)

/-- Settles O48: accepted, the DECODE waits with the tuple as it was; once answered it follows the transaction, and at IDLE it
has done all of it. -/
theorem cycleDecodeRefinesTransaction : Obligations.CycleDecodeRefinesTransaction := by
  intro s t x xs rest hf hp hx ha hq h ht
  obtain ⟨u, hu, hrun⟩ := core_run_succ_eq_next h
  cases (step_accept hf hp hx ha).symm.trans hu
  obtain ⟨p, hfirst, -, htup⟩ := run_quiet_waiting (s := s) (u := accept (prepared s)) ((prepared_faultMark s).trans hf)
    (prepared_script hx) hq rfl (tuple_prepared s) hrun ht
  rw [ht] at htup
  exact ⟨p, decodeFrame p s, hfirst, exec_decodeInstr p hf, htup⟩

end Sys2Proof.Machine
end
